-- ==== Sys2Proof/Word.lean ====
section
/-!
DEFINITION. The word types of the core and their plainest arithmetic (00_scope.md R8, R9, R10).
All values are unsigned; there is no sign extension anywhere in the instruction set.
-/

namespace Sys2Proof

/-- An 8-bit value: a general register, a timer, a memory cell, an `nn` immediate. -/
abbrev Byte := BitVec 8

/-- A 16-bit value: `pc`, `I`, a stack entry, an instruction word. -/
abbrev Word := BitVec 16

/-- A 12-bit address immediate `nnn`. -/
abbrev Addr12 := BitVec 12

/-- The index of a general register, a key or a nibble operand: 0..15. -/
abbrev Nibble := Fin 16

/-- `zext_16(nnn)` (00 R10, 30 R303). -/
def zext16 (a : Addr12) : Word := a.setWidth 16

/-- A bit as the value 0 or 1 of a register. -/
def bitByte (b : Bool) : Byte := if b then 1 else 0

end Sys2Proof
end

