-- ==== Sys2Proof/Config.lean ====
section
/-!
DEFINITION. What an implementation fixes (00_scope.md R8) and the free values (10 R101, 40 R400, 45 R906). The default
settings of the parameters are in Machine/Params.lean.
-/

namespace Sys2Proof.Config

/-- `MEM_SIZE`: 4096 byte cells (00 R8, 20 R200; D3, log entry 12). -/
abbrev memSize : Nat := 4096

/-- `FB_W`: 64 columns (00 R8, 10 R114; D3, log entry 12). -/
abbrev fbWidth : Nat := 64

/-- `FB_H`: 32 rows (00 R8, 10 R114; D3, log entry 12). -/
abbrev fbHeight : Nat := 32

/-- `FONT_BASE` (00 R8, 43 R703). -/
abbrev fontBase : Nat := 0x050

/-- `GLYPH_BYTES` (00 R8). -/
abbrev glyphBytes : Nat := 5

/-- The 80 bytes a font must have: 16 glyphs of 5 bytes (00 R8, 70 R1101). -/
abbrev fontSize : Nat := 80

/-- `PROG_BASE`, the load address and the reset `pc` (00 R8, 70 R1103). -/
abbrev progBase : Nat := 0x200

/-- FREE VALUE. The random byte supplied with a step (40 R400, 42 R613; D21, U9: any byte, no law), applied to the
count of free values consumed so far, `State.draws`. It has no body: nothing can be proved of it (log entry 3). -/
opaque randomByte : Nat → Byte

/-- FREE VALUE. Which of several keys that are down FX0A records (45 R906; D19, U8: any of them), applied to
`State.draws`; reduced modulo the number of keys down. It has no body (log entry 4). -/
opaque keyPick : Nat → Nat

end Sys2Proof.Config

namespace Sys2Proof

/-- The configuration of a run: the five quirks and the stack limit (00 R3, R8; 10 R116). Programs can neither read nor
write it (10 R101). -/
structure Configuration where
  /-- quirk-A, shift-uses-vy (42 R610, R612). -/
  quirkA : Bool
  /-- quirk-B, jump-with-offset-uses-v0 (41 R508). -/
  quirkB : Bool
  /-- quirk-C, index-overflow-flag (43 R702). -/
  quirkC : Bool
  /-- quirk-D, index-autoincrement-on-store-load (43 R705, R706). -/
  quirkD : Bool
  /-- quirk-E, get-key-blocks-on-release (45 R906). -/
  quirkE : Bool
  /-- `STACK_LIMIT`: a positive number of entries, or `none` for unbounded (10 R111). -/
  stackLimit : Option Nat
  deriving DecidableEq, Repr

end Sys2Proof
end

