-- ==== Sys2Proof/Syntax.lean ====
section
/-!
DEFINITION. The 34 instructions of the opcode table (30_encoding.md R302, R304; spec/opcode_table.json), one
constructor per row. Operands carry their exact ranges: a register index or a row count is 0..15, `nn` has 8 bits,
`nnn` has 12 bits (30 R303).
-/

namespace Sys2Proof

inductive Instr where
  /-- 00E0 `CLS` (44 R801). -/
  | cls
  /-- 00EE `RET` (41 R501). -/
  | ret
  /-- 1NNN `JP nnn` (41 R502). -/
  | jp (nnn : Addr12)
  /-- 2NNN `CALL nnn` (41 R503). -/
  | call (nnn : Addr12)
  /-- 3XNN `SE Vx, nn` (41 R504). -/
  | seImm (x : Nibble) (nn : Byte)
  /-- 4XNN `SNE Vx, nn` (41 R505). -/
  | sneImm (x : Nibble) (nn : Byte)
  /-- 5XY0 `SE Vx, Vy` (41 R506). -/
  | seReg (x y : Nibble)
  /-- 6XNN `LD Vx, nn` (42 R601). -/
  | ldImm (x : Nibble) (nn : Byte)
  /-- 7XNN `ADD Vx, nn` (42 R602). -/
  | addImm (x : Nibble) (nn : Byte)
  /-- 8XY0 `LD Vx, Vy` (42 R603). -/
  | ldReg (x y : Nibble)
  /-- 8XY1 `OR Vx, Vy` (42 R604). -/
  | orReg (x y : Nibble)
  /-- 8XY2 `AND Vx, Vy` (42 R605). -/
  | andReg (x y : Nibble)
  /-- 8XY3 `XOR Vx, Vy` (42 R606). -/
  | xorReg (x y : Nibble)
  /-- 8XY4 `ADD Vx, Vy` (42 R608). -/
  | addReg (x y : Nibble)
  /-- 8XY5 `SUB Vx, Vy` (42 R609). -/
  | subReg (x y : Nibble)
  /-- 8XY6 `SHR Vx, Vy` (42 R610). -/
  | shr (x y : Nibble)
  /-- 8XY7 `SUBN Vx, Vy` (42 R611). -/
  | subnReg (x y : Nibble)
  /-- 8XYE `SHL Vx, Vy` (42 R612). -/
  | shl (x y : Nibble)
  /-- 9XY0 `SNE Vx, Vy` (41 R507). -/
  | sneReg (x y : Nibble)
  /-- ANNN `LD I, nnn` (43 R701). -/
  | ldI (nnn : Addr12)
  /-- BNNN `JP V0, nnn`; its field `x` is `nnn[11:8]` (41 R508). -/
  | jpV0 (nnn : Addr12)
  /-- CXNN `RND Vx, nn` (42 R613). -/
  | rnd (x : Nibble) (nn : Byte)
  /-- DXYN `DRW Vx, Vy, n` (44 R803). -/
  | drw (x y n : Nibble)
  /-- EX9E `SKP Vx` (45 R901). -/
  | skp (x : Nibble)
  /-- EXA1 `SKNP Vx` (45 R902). -/
  | sknp (x : Nibble)
  /-- FX07 `LD Vx, DT` (45 R903). -/
  | ldVxDt (x : Nibble)
  /-- FX0A `LD Vx, K` (45 R906). -/
  | ldVxK (x : Nibble)
  /-- FX15 `LD DT, Vx` (45 R904). -/
  | ldDtVx (x : Nibble)
  /-- FX18 `LD ST, Vx` (45 R905). -/
  | ldStVx (x : Nibble)
  /-- FX1E `ADD I, Vx` (43 R702). -/
  | addI (x : Nibble)
  /-- FX29 `LD F, Vx` (43 R703). -/
  | ldF (x : Nibble)
  /-- FX33 `LD B, Vx` (43 R704). -/
  | ldB (x : Nibble)
  /-- FX55 `LD [I], Vx` (43 R705). -/
  | storeRegs (x : Nibble)
  /-- FX65 `LD Vx, [I]` (43 R706). -/
  | loadRegs (x : Nibble)
  deriving DecidableEq, Repr

end Sys2Proof
end

