-- ==== Sys2Proof/WellFormed.lean ====
section
/-!
DEFINITION. The well-formedness checks. EVERY TERM OF `Instr` IS WELL FORMED: its operands carry their exact ranges in
their types (30 R303), so no check on a term is left to make. What can be ill formed is a WORD (one that matches no row
of the opcode table, 30 R309), a CONFIGURATION (a stack limit of 0, 10 R116) and the inputs of a LOAD (70 R1101).
-/

namespace Sys2Proof

/-- A row of the opcode table: a word belongs to it when its bits under `mask` are `pattern` (30 R304, R311). -/
structure Row where
  mask : Word
  pattern : Word
  deriving DecidableEq, Repr

/-- The word has the row's fixed bits. -/
def Row.accepts (r : Row) (w : Word) : Bool := w &&& r.mask == r.pattern

/-- The row of spec/opcode_table.json each instruction stands for: its `mask` and `match`. -/
def Instr.row : Instr → Row
  | .cls => ⟨0xFFFF, 0x00E0⟩
  | .ret => ⟨0xFFFF, 0x00EE⟩
  | .jp _ => ⟨0xF000, 0x1000⟩
  | .call _ => ⟨0xF000, 0x2000⟩
  | .seImm _ _ => ⟨0xF000, 0x3000⟩
  | .sneImm _ _ => ⟨0xF000, 0x4000⟩
  | .seReg _ _ => ⟨0xF00F, 0x5000⟩
  | .ldImm _ _ => ⟨0xF000, 0x6000⟩
  | .addImm _ _ => ⟨0xF000, 0x7000⟩
  | .ldReg _ _ => ⟨0xF00F, 0x8000⟩
  | .orReg _ _ => ⟨0xF00F, 0x8001⟩
  | .andReg _ _ => ⟨0xF00F, 0x8002⟩
  | .xorReg _ _ => ⟨0xF00F, 0x8003⟩
  | .addReg _ _ => ⟨0xF00F, 0x8004⟩
  | .subReg _ _ => ⟨0xF00F, 0x8005⟩
  | .shr _ _ => ⟨0xF00F, 0x8006⟩
  | .subnReg _ _ => ⟨0xF00F, 0x8007⟩
  | .shl _ _ => ⟨0xF00F, 0x800E⟩
  | .sneReg _ _ => ⟨0xF00F, 0x9000⟩
  | .ldI _ => ⟨0xF000, 0xA000⟩
  | .jpV0 _ => ⟨0xF000, 0xB000⟩
  | .rnd _ _ => ⟨0xF000, 0xC000⟩
  | .drw _ _ _ => ⟨0xF000, 0xD000⟩
  | .skp _ => ⟨0xF0FF, 0xE09E⟩
  | .sknp _ => ⟨0xF0FF, 0xE0A1⟩
  | .ldVxDt _ => ⟨0xF0FF, 0xF007⟩
  | .ldVxK _ => ⟨0xF0FF, 0xF00A⟩
  | .ldDtVx _ => ⟨0xF0FF, 0xF015⟩
  | .ldStVx _ => ⟨0xF0FF, 0xF018⟩
  | .addI _ => ⟨0xF0FF, 0xF01E⟩
  | .ldF _ => ⟨0xF0FF, 0xF029⟩
  | .ldB _ => ⟨0xF0FF, 0xF033⟩
  | .storeRegs _ => ⟨0xF0FF, 0xF055⟩
  | .loadRegs _ => ⟨0xF0FF, 0xF065⟩

/-- Families 0 to 7: CLS, RET, JP, CALL, SE, SNE, SE, LD, ADD. -/
def opcodeRows0To7 : List Row :=
  [⟨0xFFFF, 0x00E0⟩,
   ⟨0xFFFF, 0x00EE⟩,
   ⟨0xF000, 0x1000⟩,
   ⟨0xF000, 0x2000⟩,
   ⟨0xF000, 0x3000⟩,
   ⟨0xF000, 0x4000⟩,
   ⟨0xF00F, 0x5000⟩,
   ⟨0xF000, 0x6000⟩,
   ⟨0xF000, 0x7000⟩]

/-- Families 8 and 9. -/
def opcodeRows8To9 : List Row :=
  [⟨0xF00F, 0x8000⟩,
   ⟨0xF00F, 0x8001⟩,
   ⟨0xF00F, 0x8002⟩,
   ⟨0xF00F, 0x8003⟩,
   ⟨0xF00F, 0x8004⟩,
   ⟨0xF00F, 0x8005⟩,
   ⟨0xF00F, 0x8006⟩,
   ⟨0xF00F, 0x8007⟩,
   ⟨0xF00F, 0x800E⟩,
   ⟨0xF00F, 0x9000⟩]

/-- Families A to E. -/
def opcodeRowsAToE : List Row :=
  [⟨0xF000, 0xA000⟩,
   ⟨0xF000, 0xB000⟩,
   ⟨0xF000, 0xC000⟩,
   ⟨0xF000, 0xD000⟩,
   ⟨0xF0FF, 0xE09E⟩,
   ⟨0xF0FF, 0xE0A1⟩]

/-- Family F. -/
def opcodeRowsF : List Row :=
  [⟨0xF0FF, 0xF007⟩,
   ⟨0xF0FF, 0xF00A⟩,
   ⟨0xF0FF, 0xF015⟩,
   ⟨0xF0FF, 0xF018⟩,
   ⟨0xF0FF, 0xF01E⟩,
   ⟨0xF0FF, 0xF029⟩,
   ⟨0xF0FF, 0xF033⟩,
   ⟨0xF0FF, 0xF055⟩,
   ⟨0xF0FF, 0xF065⟩]

/-- The 34 rows of spec/opcode_table.json in the table's order. -/
def opcodeRows : List Row := opcodeRows0To7 ++ opcodeRows8To9 ++ opcodeRowsAToE ++ opcodeRowsF

/-- The word is an instruction: some row of the opcode table matches it (30 R309, R310). -/
def wellFormedWord (w : Word) : Bool := opcodeRows.any (·.accepts w)

/-- The configuration is legal: `STACK_LIMIT` is positive or unbounded (10 R116). -/
def Configuration.wellFormed (c : Configuration) : Bool := c.stackLimit != some 0

/-- The ROM fits above 0x200 (70 R1101). -/
def romFits (rom : List Byte) : Bool := rom.length ≤ Config.memSize - Config.progBase

/-- The font is exactly 16 glyphs of 5 bytes (70 R1101; D30). -/
def fontFits (font : List Byte) : Bool := font.length == Config.fontSize

end Sys2Proof
end

