-- ==== Sys2Proof/Decode.lean ====
section
/-!
DEFINITION. The instruction words: fields (00 R12, 30 R301), decoder (30 R304-R308) and encoder. `none` from the decoder
means an unknown encoding (30 R309), which the step turns into a diagnostic, never into a refusal (40 R407).
-/

namespace Sys2Proof

/-! Fields of a word (00 R12, 30 R301). -/

/-- A 4-bit slice as a register index, a row count or an opcode. -/
def nibbleAt (w : Word) (lo : Nat) : Nibble := (w.extractLsb' lo 4).toFin

/-- `op = w[15:12]`. -/
def fieldOp (w : Word) : Nibble := nibbleAt w 12

/-- `x = w[11:8]`. -/
def fieldX (w : Word) : Nibble := nibbleAt w 8

/-- `y = w[7:4]`. -/
def fieldY (w : Word) : Nibble := nibbleAt w 4

/-- `n = w[3:0]`. -/
def fieldN (w : Word) : Nibble := nibbleAt w 0

/-- `nn = w[7:0]`. -/
def fieldNN (w : Word) : Byte := w.extractLsb' 0 8

/-- `nnn = w[11:0]`. -/
def fieldNNN (w : Word) : Addr12 := w.extractLsb' 0 12

/-- Family 0: the two whole words 0x00E0 and 0x00EE (30 R305). -/
def decodeFamily0 (w : Word) : Option Instr :=
  if w = 0x00E0#16 then some .cls
  else if w = 0x00EE#16 then some .ret
  else none

/-- Family 8, selected by `n` (30 R306). -/
def decodeFamily8 (x y n : Nibble) : Option Instr :=
  match n.val with
  | 0x0 => some (.ldReg x y)
  | 0x1 => some (.orReg x y)
  | 0x2 => some (.andReg x y)
  | 0x3 => some (.xorReg x y)
  | 0x4 => some (.addReg x y)
  | 0x5 => some (.subReg x y)
  | 0x6 => some (.shr x y)
  | 0x7 => some (.subnReg x y)
  | 0xE => some (.shl x y)
  | _ => none

/-- Family E, selected by `nn` (30 R307). -/
def decodeFamilyE (x : Nibble) (nn : Byte) : Option Instr :=
  match nn.toNat with
  | 0x9E => some (.skp x)
  | 0xA1 => some (.sknp x)
  | _ => none

/-- Family F, selected by `nn` (30 R308). -/
def decodeFamilyF (x : Nibble) (nn : Byte) : Option Instr :=
  match nn.toNat with
  | 0x07 => some (.ldVxDt x)
  | 0x0A => some (.ldVxK x)
  | 0x15 => some (.ldDtVx x)
  | 0x18 => some (.ldStVx x)
  | 0x1E => some (.addI x)
  | 0x29 => some (.ldF x)
  | 0x33 => some (.ldB x)
  | 0x55 => some (.storeRegs x)
  | 0x65 => some (.loadRegs x)
  | _ => none

/-- The outer map, by `op` (30 R304). Families 5 and 9 also require `n` = 0 (D13, log entry 15). -/
def decodeWord (w : Word) : Option Instr :=
  let x := fieldX w
  let y := fieldY w
  let n := fieldN w
  let nn := fieldNN w
  let nnn := fieldNNN w
  match (fieldOp w).val with
  | 0x0 => decodeFamily0 w
  | 0x1 => some (.jp nnn)
  | 0x2 => some (.call nnn)
  | 0x3 => some (.seImm x nn)
  | 0x4 => some (.sneImm x nn)
  | 0x5 => if n = 0 then some (.seReg x y) else none
  | 0x6 => some (.ldImm x nn)
  | 0x7 => some (.addImm x nn)
  | 0x8 => decodeFamily8 x y n
  | 0x9 => if n = 0 then some (.sneReg x y) else none
  | 0xA => some (.ldI nnn)
  | 0xB => some (.jpV0 nnn)
  | 0xC => some (.rnd x nn)
  | 0xD => some (.drw x y n)
  | 0xE => decodeFamilyE x nn
  | 0xF => decodeFamilyF x nn
  | _ => none

/-- The big-endian word of two bytes: the byte at the lower address is bits [15:8] (20 R203, R207). -/
def wordOfBytes (hi lo : Byte) : Word := hi ++ lo

/-- The byte of a word that lies at the lower address. -/
def highByte (w : Word) : Byte := w.extractLsb' 8 8

/-- The byte of a word that lies at the higher address. -/
def lowByte (w : Word) : Byte := w.extractLsb' 0 8

/-- The instruction at the head of a byte list and the rest of the list; `none` for an unknown encoding and for a list
of fewer than two bytes. Every instruction is two bytes (30 R300). -/
def decode : List Byte → Option (Instr × List Byte)
  | hi :: lo :: rest => (decodeWord (wordOfBytes hi lo)).map (·, rest)
  | _ => none

/-! The encoder, from the same tables: format `A`, `XK`, `XY` and `XYN`, `XF` (30 R302). -/

/-- A nibble as four bits. -/
def nibbleBits (k : Nibble) : BitVec 4 := BitVec.ofFin k

/-- Format `A`: `op` and `nnn`. -/
def wordA (op : BitVec 4) (nnn : Addr12) : Word := op ++ nnn

/-- Formats `XK` and `XF`: `op`, `x` and a byte (the immediate `nn`, or the function code). -/
def wordXK (op : BitVec 4) (x : Nibble) (nn : Byte) : Word := op ++ (nibbleBits x ++ nn)

/-- Formats `XY` and `XYN`: `op`, `x`, `y` and a nibble (the function code, or the row count). -/
def wordXYN (op : BitVec 4) (x y : Nibble) (n : BitVec 4) : Word := op ++ (nibbleBits x ++ (nibbleBits y ++ n))

/-- The word of an instruction (30 R304-R308). -/
def encode : Instr → Word
  | .cls => 0x00E0#16
  | .ret => 0x00EE#16
  | .jp nnn => wordA 0x1#4 nnn
  | .call nnn => wordA 0x2#4 nnn
  | .seImm x nn => wordXK 0x3#4 x nn
  | .sneImm x nn => wordXK 0x4#4 x nn
  | .seReg x y => wordXYN 0x5#4 x y 0x0#4
  | .ldImm x nn => wordXK 0x6#4 x nn
  | .addImm x nn => wordXK 0x7#4 x nn
  | .ldReg x y => wordXYN 0x8#4 x y 0x0#4
  | .orReg x y => wordXYN 0x8#4 x y 0x1#4
  | .andReg x y => wordXYN 0x8#4 x y 0x2#4
  | .xorReg x y => wordXYN 0x8#4 x y 0x3#4
  | .addReg x y => wordXYN 0x8#4 x y 0x4#4
  | .subReg x y => wordXYN 0x8#4 x y 0x5#4
  | .shr x y => wordXYN 0x8#4 x y 0x6#4
  | .subnReg x y => wordXYN 0x8#4 x y 0x7#4
  | .shl x y => wordXYN 0x8#4 x y 0xE#4
  | .sneReg x y => wordXYN 0x9#4 x y 0x0#4
  | .ldI nnn => wordA 0xA#4 nnn
  | .jpV0 nnn => wordA 0xB#4 nnn
  | .rnd x nn => wordXK 0xC#4 x nn
  | .drw x y n => wordXYN 0xD#4 x y (nibbleBits n)
  | .skp x => wordXK 0xE#4 x 0x9E#8
  | .sknp x => wordXK 0xE#4 x 0xA1#8
  | .ldVxDt x => wordXK 0xF#4 x 0x07#8
  | .ldVxK x => wordXK 0xF#4 x 0x0A#8
  | .ldDtVx x => wordXK 0xF#4 x 0x15#8
  | .ldStVx x => wordXK 0xF#4 x 0x18#8
  | .addI x => wordXK 0xF#4 x 0x1E#8
  | .ldF x => wordXK 0xF#4 x 0x29#8
  | .ldB x => wordXK 0xF#4 x 0x33#8
  | .storeRegs x => wordXK 0xF#4 x 0x55#8
  | .loadRegs x => wordXK 0xF#4 x 0x65#8

/-- The two bytes of an instruction as memory holds them, lower address first (20 R207). -/
def encodeBytes (i : Instr) : List Byte := [highByte (encode i), lowByte (encode i)]

/-- The instruction word given as a number whose bits above `nbits` are taken as 0. -/
def tableWord (nbits w : Nat) : Word := BitVec.ofNat 16 (w % 2 ^ nbits)

/-- What the decoder reads from an instruction whose bits are `w`, bit 0 the least significant bit of its one word: the
word is laid out as memory holds it and decoded from its bytes. -/
def decodeTableWord (nbits w : Nat) : Option Instr :=
  (decode [highByte (tableWord nbits w), lowByte (tableWord nbits w)]).map Prod.fst

end Sys2Proof
end

