-- ==== Sys2Proof/Machine/Params.lean ====
section
/-!
DEFINITION. The default values of the parameters (00_scope.md R8; 92_eei_decisions.md D4, D5, D7; 10_state.md R131).
-/

namespace Sys2Proof.Machine

/-- The defaults of the quirks and of `STACK_LIMIT`: A, B, D, E on, C off, 16 entries (00 R8; log entry 5). -/
def defaultConfiguration : Configuration where
  quirkA := true
  quirkB := true
  quirkC := false
  quirkD := true
  quirkE := true
  stackLimit := some 16

/-- Glyphs 0 to 7 of the default font (10 R131). -/
def fontGlyphs0To7 : List Byte :=
  [0xF0, 0x90, 0x90, 0x90, 0xF0,
   0x20, 0x60, 0x20, 0x20, 0x70,
   0xF0, 0x10, 0xF0, 0x80, 0xF0,
   0xF0, 0x10, 0xF0, 0x10, 0xF0,
   0x90, 0x90, 0xF0, 0x10, 0x10,
   0xF0, 0x80, 0xF0, 0x10, 0xF0,
   0xF0, 0x80, 0xF0, 0x90, 0xF0,
   0xF0, 0x10, 0x20, 0x40, 0x40]

/-- Glyphs 8 to F of the default font (10 R131). -/
def fontGlyphs8ToF : List Byte :=
  [0xF0, 0x90, 0xF0, 0x90, 0xF0,
   0xF0, 0x90, 0xF0, 0x10, 0xF0,
   0xF0, 0x90, 0xF0, 0x90, 0x90,
   0xE0, 0x90, 0xE0, 0x90, 0xE0,
   0xF0, 0x80, 0x80, 0x80, 0xF0,
   0xE0, 0x90, 0x90, 0x90, 0xE0,
   0xF0, 0x80, 0xF0, 0x80, 0xF0,
   0xF0, 0x80, 0xF0, 0x80, 0x80]

/-- The default `FONT`, glyph `d` at offset `5 * d` (10 R131, D7; log entry 6). -/
def defaultFont : List Byte := fontGlyphs0To7 ++ fontGlyphs8ToF

/-- The cell at address `a` after construction with the default font and an empty ROM (20 R201, 70 R1100): what an
address that memory does not list reads as. -/
def initialByte (a : Nat) : Byte :=
  if Config.fontBase ≤ a then defaultFont.getD (a - Config.fontBase) 0 else 0

end Sys2Proof.Machine
end

