-- ==== Sys2Proof/Machine/State.lean ====
section
/-!
DEFINITION. The state of the core (10_state.md R100, R116) as plain data, the reasons a step can stop, and the state
after reset (10 R130). Fields that are the model's own and not the spec's state are `keys` and `draws`.
-/

namespace Sys2Proof.Machine

/-- The keypad-wait latch (10 R113). -/
inductive Latch where
  | idle
  | waitingForPress
  | waitingForRelease (k : Nibble)
  deriving DecidableEq, Repr

/-- The fatal faults with the value each records (60 R1002). A meaning raises one by `State.raise`; it ends the
instruction and sets `status` (60 R1001). -/
inductive FatalFault where
  /-- Code 1: the first out-of-range byte address. Raised by the fetch, DXYN, FX33, FX55, FX65. -/
  | outOfBounds (address : Nat)
  /-- Code 2: the address of the instruction. Raised by 00EE. -/
  | stackUnderflow (address : Word)
  /-- Code 3: the address of the instruction. Raised by 2NNN. -/
  | stackOverflow (address : Word)
  /-- Code 4: the rejected length. Answered by `load` only, never by a step. -/
  | capacityExceeded (length : Nat)
  /-- Code 5: the address of the instruction and the value of the register. Raised by EX9E and EXA1. -/
  | keyIndexOutOfRange (address : Word) (value : Byte)
  deriving DecidableEq, Repr

/-- The run status (10 R100, R116; 60 R1001). -/
inductive Status where
  | running
  | faulted (fault : FatalFault)
  deriving DecidableEq, Repr

/-- The kinds of diagnostic (60 R1011, R1012). -/
inductive DiagKind where
  /-- Code 1. -/
  | unknownOpcode
  /-- Code 2. -/
  | invalidDigit
  deriving DecidableEq, Repr

/-- One record of the diagnostic log (60 R1010): kind, address of the instruction, its word, and the value that
InvalidDigit records (UnknownOpcode records none). -/
structure Diag where
  kind : DiagKind
  address : Word
  word : Word
  info : Option Byte
  deriving DecidableEq, Repr

/-- One row of pixels, column 0 the leftmost; true = lit (10 R114). -/
abbrev PixelRow := Vector Bool Config.fbWidth

/-- The framebuffer, row 0 the top row (10 R114). -/
abbrev Framebuffer := Vector PixelRow Config.fbHeight

/-- The keypad vector `K`, true = key down (00 R11, 40 R400). -/
abbrev Keypad := Vector Bool 16

/-- Memory: the cells that differ from `initialByte`, in rising order of address (see `Memory.wf`). -/
abbrev Memory := List Host.Cell

/-- The state of the core. -/
structure State where
  /-- `V[0..15]`; `V[15]` is VF (10 R102, R103). -/
  v : Vector Byte 16
  /-- `I` (10 R106). -/
  index : Word
  /-- `pc` (10 R107). -/
  pc : Word
  /-- `DT` (10 R112). -/
  dt : Byte
  /-- `ST` (10 R112). -/
  st : Byte
  /-- The keypad-wait latch (10 R113). -/
  latch : Latch
  /-- The framebuffer (10 R114). -/
  fb : Framebuffer
  /-- The call stack, the most recently pushed entry FIRST (10 R110; log entry 10). -/
  stack : List Word
  /-- The byte memory (10 R115, 20 R200). -/
  mem : Memory
  /-- The run status (10 R116). -/
  status : Status
  /-- The diagnostic log, the oldest record first (10 R116, 60 R1010). -/
  diags : List Diag
  /-- The quirks and `STACK_LIMIT` (10 R116). -/
  config : Configuration
  /-- The model's own: the keypad input of the current tick (40 R400, 60 R1034; log entry 2). -/
  keys : Keypad
  /-- The model's own: how many free values have been consumed (log entries 3, 4). -/
  draws : Nat
  deriving DecidableEq, Repr

/-- Why a step answers no next state. -/
inductive Fault where
  /-- Raised by `step` when `status` is Faulted: no step is enabled (40 R401, 60 R1005). Safe: the spec gives a faulted
  run no further step. Fatal faults themselves are NEXT states with `status` set (60 R1001; log entry 1). -/
  | runFaulted (fault : FatalFault)
  deriving DecidableEq, Repr

/-- Why an instruction has no meaning in the model. -/
inductive Refusal where
  /-- Raised by an arm of `exec` for an instruction without a meaning. Safe. No arm raises it: every instruction has its
  meaning. -/
  | notModelled (mnemonic : String)
  deriving DecidableEq, Repr

/-- What a meaning and a step answer. -/
abbrev Result := Host.Outcome State Fault Refusal

/-- Every pixel unlit (10 R130). -/
def Framebuffer.blank : Framebuffer := Vector.replicate Config.fbHeight (Vector.replicate Config.fbWidth false)

/-- No key down. -/
def Keypad.allUp : Keypad := Vector.replicate 16 false

/-- The state after construction with the default font and an empty ROM (10 R130, 70 R1100). -/
def State.reset : State where
  v := Vector.replicate 16 0
  index := 0
  pc := BitVec.ofNat 16 Config.progBase
  dt := 0
  st := 0
  latch := .idle
  fb := Framebuffer.blank
  stack := []
  mem := []
  status := .running
  diags := []
  config := defaultConfiguration
  keys := Keypad.allUp
  draws := 0

end Sys2Proof.Machine
end

