-- ==== Sys2Proof/Machine/Ops.lean ====
section
/-!
DEFINITION. The named operations over the state that every meaning uses (00_scope.md R11): registers, memory, stack,
framebuffer, faults and diagnostics.
-/

namespace Sys2Proof.Machine

/-! Registers (00 R11, 10 R102). -/

/-- `VF`, register 15 (10 R103). -/
def vf : Nibble := 15

/-- `V[x]`. -/
def State.getV (s : State) (x : Nibble) : Byte := s.v[x]

/-- `V[x] <- b`. -/
def State.setV (s : State) (x : Nibble) (b : Byte) : State := { s with v := s.v.set x b }

/-- `I <- w`. -/
def State.setIndex (s : State) (w : Word) : State := { s with index := w }

/-- `pc <- w`. -/
def State.setPc (s : State) (w : Word) : State := { s with pc := w }

/-- `DT <- b`. -/
def State.setDt (s : State) (b : Byte) : State := { s with dt := b }

/-- `ST <- b`. -/
def State.setSt (s : State) (b : Byte) : State := { s with st := b }

/-- `latch <- l`. -/
def State.setLatch (s : State) (l : Latch) : State := { s with latch := l }

/-- The whole framebuffer. -/
def State.setFb (s : State) (f : Framebuffer) : State := { s with fb := f }

/-- The whole call stack. -/
def State.setStack (s : State) (k : List Word) : State := { s with stack := k }

/-- The whole memory. -/
def State.setMem (s : State) (m : Memory) : State := { s with mem := m }

/-- The run status. -/
def State.setStatus (s : State) (t : Status) : State := { s with status := t }

/-- One more free value consumed (log entries 3, 4). -/
def State.useDraw (s : State) : State := { s with draws := s.draws + 1 }

/-! The program counter (10 R107, R109): every sum is modulo 65536 (D9, log entry 13). -/

/-- The fetch advance `pc <- (pc + 2) mod 65536` (40 R404). -/
def State.advance (s : State) : State := s.setPc (s.pc + 2)

/-- A skip: `pc` a further 2 when the condition holds (41 R500). -/
def State.skipIf (s : State) (c : Bool) : State := if c then s.setPc (s.pc + 2) else s

/-- FX0A's re-execution: `pc <- (pc - 2) mod 65536` (45 R906). -/
def State.stay (s : State) : State := s.setPc (s.pc - 2)

/-- The address of the instruction in execution, `pc - 2` (40 R404). -/
def State.instrAddr (s : State) : Word := s.pc - 2

/-! Faults and diagnostics (60 R1001, R1010). -/

/-- The numeric code of a fatal fault (60 R1002). -/
def FatalFault.code : FatalFault → Nat
  | .outOfBounds _ => 1
  | .stackUnderflow _ => 2
  | .stackOverflow _ => 3
  | .capacityExceeded _ => 4
  | .keyIndexOutOfRange _ _ => 5

/-- The numeric code of a diagnostic (60 R1011, R1012). -/
def DiagKind.code : DiagKind → Nat
  | .unknownOpcode => 1
  | .invalidDigit => 2

/-- TAKING A FATAL FAULT, for every instruction and the fetch: `status <- Faulted(code, info)` and nothing else; `pc`
keeps its value, no vector, no saved state (60 R1001, R1004; log entry 1). There is no return from one (60 R1005): only
`State.hostReset` and `State.load` make the run Running again. -/
def State.raise (s : State) (f : FatalFault) : State := s.setStatus (.faulted f)

/-- `diag E(info)`: append one record and go on (60 R1010). -/
def State.diag (s : State) (d : Diag) : State := { s with diags := s.diags ++ [d] }

/-- An unknown encoding: the record UnknownOpcode(pc - 2, w) and nothing else (40 R407, 60 R1011). -/
def State.unknownOpcode (s : State) (w : Word) : State := s.diag ⟨.unknownOpcode, s.instrAddr, w, none⟩

/-- The record InvalidDigit(pc - 2, w, d) (60 R1012). -/
def State.invalidDigit (s : State) (w : Word) (d : Byte) : State := s.diag ⟨.invalidDigit, s.instrAddr, w, some d⟩

/-- How far a sequence of accesses came: to its end, or to the access that raised a fault, with the effects performed
before it (40 R409; log entry 14). -/
inductive Attempt where
  | done (s : State)
  | raised (f : FatalFault) (s : State)

/-- What an instruction answers: the fault is taken in the state the earlier effects left. -/
def Attempt.result : Attempt → Result
  | .done s => .next s
  | .raised f s => .next (s.raise f)

/-- Go on only when no fault was raised (40 R409: later effects are not performed). -/
def Attempt.andThen : Attempt → (State → State) → Attempt
  | .done s, k => .done (k s)
  | .raised f s, _ => .raised f s

/-! Memory (20_memory.md). -/

/-- The byte a memory holds at an address: the listed one, else the construction value (20 R202, R212). -/
def Memory.read : Memory → Nat → Byte
  | [], a => initialByte a
  | (k, b) :: m, a => if a = k then b else Memory.read m a

/-- The memory without an entry for an address. -/
def Memory.unlist : Memory → Nat → Memory
  | [], _ => []
  | (k, b) :: m, a => if k = a then Memory.unlist m a else (k, b) :: Memory.unlist m a

/-- List a byte at an address that has no entry, in front of the higher addresses. -/
def Memory.list : Memory → Nat → Byte → Memory
  | [], a, v => [(a, v)]
  | (k, b) :: m, a, v => if a < k then (a, v) :: (k, b) :: m else (k, b) :: Memory.list m a v

/-- Store one byte, keeping the canonical form: a byte equal to the construction value is not listed (20 R204). -/
def Memory.write (m : Memory) (a : Nat) (v : Byte) : Memory :=
  if v = initialByte a then m.unlist a else (m.unlist a).list a v

/-- Store consecutive bytes from an address upward. -/
def Memory.writeList : Memory → Nat → List Byte → Memory
  | m, _, [] => m
  | m, a, v :: vs => Memory.writeList (m.write a v) (a + 1) vs

/-- The canonical form from address `lo` upward. -/
def Memory.wfFrom : Nat → Memory → Bool
  | _, [] => true
  | lo, (k, b) :: m => decide (lo ≤ k) && decide (k < Config.memSize) && (b != initialByte k) && Memory.wfFrom (k + 1) m

/-- THE CANONICAL FORM: addresses strictly rising and below MEM_SIZE, no entry equal to what an unlisted address reads
as. -/
def Memory.wf (m : Memory) : Bool := Memory.wfFrom 0 m

/-- The byte at an address, with no bounds check: for statements and for the operations below. -/
def State.byteAt (s : State) (a : Nat) : Byte := s.mem.read a

/-- The bounds check of every access (20 R205): the address is an exact natural number (20 R206). -/
def inBounds (a : Nat) : Bool := decide (a < Config.memSize)

/-- `MemRead(addr, 1)` (20 R202, R205). -/
def State.memRead (s : State) (a : Nat) : Except FatalFault Byte :=
  if inBounds a then .ok (s.byteAt a) else .error (.outOfBounds a)

/-- `MemRead(addr, 2)`, big-endian; the first out-of-range byte address is recorded (20 R203, R205). -/
def State.memReadWord (s : State) (a : Nat) : Except FatalFault Word :=
  match s.memRead a with
  | .error f => .error f
  | .ok hi =>
    match s.memRead (a + 1) with
    | .error f => .error f
    | .ok lo => .ok (wordOfBytes hi lo)

/-- The fetch `w <- MemRead(pc, 2)` (40 R402, R403). -/
def State.fetch (s : State) : Except FatalFault Word := s.memReadWord s.pc.toNat

/-- `MemWrite(addr, 1, v)` for an address already checked (20 R204). -/
def State.poke (s : State) (a : Nat) (b : Byte) : State := s.setMem (s.mem.write a b)

/-- Store consecutive bytes from `a` upward, each with its own bounds check, in ascending order (20 R209). -/
def State.storeBytes : List Byte → Nat → State → Attempt
  | [], _, s => .done s
  | b :: bs, a, s => if inBounds a then State.storeBytes bs (a + 1) (s.poke a b) else .raised (.outOfBounds a) s

/-- Load consecutive bytes from `a` upward into the listed registers, each with its own bounds check, in ascending
order (20 R209). -/
def State.loadRegisters : List Nibble → Nat → State → Attempt
  | [], _, s => .done s
  | x :: xs, a, s =>
    match s.memRead a with
    | .error f => .raised f s
    | .ok b => State.loadRegisters xs (a + 1) (s.setV x b)

/-- Read `n` consecutive bytes from `a` upward; the first out-of-range address is recorded (44 R803). -/
def State.readBytes (s : State) : Nat → Nat → Except FatalFault (List Byte)
  | 0, _ => .ok []
  | n + 1, a =>
    match s.memRead a with
    | .error f => .error f
    | .ok b =>
      match s.readBytes n (a + 1) with
      | .error f => .error f
      | .ok bs => .ok (b :: bs)

/-! The call stack (10 R110, R111). -/

/-- The stack already holds `STACK_LIMIT` entries (10 R111, 41 R503). -/
def State.stackFull (s : State) : Bool := decide (s.config.stackLimit = some s.stack.length)

/-- `push(v)` when the stack has room. -/
def State.push (s : State) (w : Word) : State := s.setStack (w :: s.stack)

/-- `pop()`: the most recently pushed entry and the state without it; `none` on an empty stack. -/
def State.pop (s : State) : Option (Word × State) :=
  match s.stack with
  | [] => none
  | w :: rest => some (w, s.setStack rest)

/-! The framebuffer (10 R114, 44_display.md). -/

/-- `FB[y][x]`; false outside the grid. -/
def Framebuffer.pixel (f : Framebuffer) (y x : Nat) : Bool :=
  if hy : y < Config.fbHeight then (if hx : x < Config.fbWidth then f[y][x] else false) else false

/-- `FB[y][x] <- b`; nothing outside the grid. -/
def Framebuffer.setPixel (f : Framebuffer) (y x : Nat) (b : Bool) : Framebuffer :=
  if hy : y < Config.fbHeight then (if hx : x < Config.fbWidth then f.set y (f[y].set x b) else f) else f

/-- The framebuffer and the collision flag while a sprite is drawn. -/
abbrev Canvas := Framebuffer × Bool

/-- Draw one sprite bit that is 1: note a collision when the pixel was lit, then flip the pixel (44 R803). -/
def Canvas.flip (c : Canvas) (y x : Nat) : Canvas :=
  (c.1.setPixel y x (!c.1.pixel y x), c.2 || c.1.pixel y x)

/-- Draw the bits of one row that are still to come, bit `7 - b` at column `x0 + b`; the row stops at the right edge
(44 R802, R803). -/
def Canvas.drawBits (row : Byte) (y x0 : Nat) : List Nat → Canvas → Canvas
  | [], c => c
  | b :: bs, c =>
    if Config.fbWidth ≤ x0 + b then c
    else if row.getLsbD (7 - b) then Canvas.drawBits row y x0 bs (c.flip y (x0 + b))
    else Canvas.drawBits row y x0 bs c

/-- Draw one row of a sprite, its leftmost pixel first. -/
def Canvas.drawRow (row : Byte) (y x0 : Nat) (c : Canvas) : Canvas := Canvas.drawBits row y x0 (List.range 8) c

/-- Draw the rows of a sprite downward from row `y`; drawing stops at the bottom edge (44 R802, R803). -/
def Canvas.drawRows (x0 : Nat) : List Byte → Nat → Canvas → Canvas
  | [], _, c => c
  | row :: rows, y, c =>
    if Config.fbHeight ≤ y then c else Canvas.drawRows x0 rows (y + 1) (Canvas.drawRow row y x0 c)

/-! The keypad input (40 R400). -/

/-- `K[k]`. -/
def State.keyDown (s : State) (k : Nibble) : Bool := s.keys[k]

/-- The keys that are down, lowest index first. -/
def State.keysDown (s : State) : List Nibble := (List.finRange 16).filter s.keyDown

/-- `choose({k : K[k]})`: none when no key is down, the only key when one is, else a free choice (45 R906, D19; log
entry 4). -/
def State.pickKey (s : State) : Option Nibble :=
  match s.keysDown with
  | [] => none
  | [k] => some k
  | k :: ks => some ((k :: ks).getD (Config.keyPick s.draws % (k :: ks).length) k)

end Sys2Proof.Machine
end

