-- ==== Sys2Proof/Machine/Operands.lean ====
section
/-!
DEFINITION. The operand forms (30_encoding.md R302, R303; 43_index_memory.md R700): effective addresses, register
ranges, jump targets, sprite anchors, font glyphs, decimal digits and key indices.
-/

namespace Sys2Proof.Machine

/-- The effective address of byte 0 of a block: `I` as an exact natural number (20 R206, 43 R700). Byte `k` lies at
`blockAddr s + k`. -/
def blockAddr (s : State) : Nat := s.index.toNat

/-- The register range `V0..Vx` in ascending order (10 R105, 43 R705, R706). -/
def regRange (x : Nibble) : List Nibble := (List.finRange 16).filter (· ≤ x)

/-- The bytes `V[0]..V[x]` that FX55 stores. -/
def regBytes (s : State) (x : Nibble) : List Byte := (regRange x).map s.getV

/-- Quirk-D's increment of `I` after a whole block: `(a + x + 1) mod 65536` (43 R705, R706). -/
def incrementIndex (x : Nibble) (s : State) : State :=
  if s.config.quirkD then s.setIndex (BitVec.ofNat 16 (blockAddr s + x.val + 1)) else s

/-- The offset register of BNNN: `V0` under quirk-B, else `V[x]` with `x = nnn[11:8]` (41 R508). -/
def offsetReg (s : State) (nnn : Addr12) : Nibble :=
  if s.config.quirkB then 0 else (nnn.extractLsb' 8 4).toFin

/-- BNNN's target: the 12-bit immediate plus the offset register (41 R508). -/
def offsetTarget (s : State) (nnn : Addr12) : Word := zext16 nnn + (s.getV (offsetReg s nnn)).setWidth 16

/-- The column of a sprite's anchor, `Vx mod FB_W` (44 R802). -/
def anchorColumn (s : State) (x : Nibble) : Nat := (s.getV x).toNat % Config.fbWidth

/-- The row of a sprite's anchor, `Vy mod FB_H` (44 R802). -/
def anchorRow (s : State) (y : Nibble) : Nat := (s.getV y).toNat % Config.fbHeight

/-- The address of glyph `d`: `FONT_BASE + 5 * d` (43 R703). -/
def glyphAddr (d : Nat) : Word := BitVec.ofNat 16 (Config.fontBase + Config.glyphBytes * d)

/-- The decimal digits of a byte, hundreds first (43 R704). -/
def decimalDigits (v : Byte) : List Byte :=
  [BitVec.ofNat 8 (v.toNat / 100), BitVec.ofNat 8 (v.toNat / 10 % 10), BitVec.ofNat 8 (v.toNat % 10)]

/-- A register value as a key index; `none` above 15 (45 R900). -/
def keyIndex (b : Byte) : Option Nibble := if h : b.toNat < 16 then some ⟨b.toNat, h⟩ else none

/-- The value a 1-byte register takes for a key index. -/
def keyByte (k : Nibble) : Byte := BitVec.ofNat 8 k.val

/-- The value to be shifted: quirk-A copies `Vy` into `Vx` first (42 R610, R612). -/
def shiftSource (s : State) (x y : Nibble) : State := if s.config.quirkA then s.setV x (s.getV y) else s

end Sys2Proof.Machine
end

