-- ==== Sys2Proof/Machine/Flags.lean ====
section
/-!
DEFINITION. Every flag computation (10_state.md R104): the value VF is written with.
-/

namespace Sys2Proof.Machine

/-- 8XY4's carry: 1 iff the sum exceeds 255 (42 R608). -/
def carryFlag (a b : Byte) : Byte := bitByte (decide (255 < a.toNat + b.toNat))

/-- The no-borrow flag of `a - b`: 1 iff `a >= b` (42 R609, R611). -/
def noBorrowFlag (a b : Byte) : Byte := bitByte (decide (b.toNat ≤ a.toNat))

/-- 8XY6's flag: bit 0 of the value shifted (42 R610). -/
def lowBitFlag (a : Byte) : Byte := bitByte (a.getLsbD 0)

/-- 8XYE's flag: bit 7 of the value shifted (42 R612). -/
def highBitFlag (a : Byte) : Byte := bitByte (a.getLsbD 7)

/-- DXYN's flag: 1 on any collision (44 R803). -/
def collisionFlag (c : Bool) : Byte := bitByte c

/-- FX1E's overflow: the exact sum is no valid memory address (43 R702; D16). -/
def indexOverflow (sum : Nat) : Bool := !inBounds sum

/-- `V[F] <- flag`. -/
def State.setFlag (s : State) (flag : Byte) : State := s.setV vf flag

end Sys2Proof.Machine
end

