-- ==== Sys2Proof/Machine/Alu.lean ====
section
/-!
DEFINITION. Register, arithmetic and logic instructions (42_alu.md). Operands are read first, then the statements run
in the rule's order (R600): the flag last in 8XY4, 8XY5, 8XY7, before the shift in 8XY6, 8XYE.
-/

namespace Sys2Proof.Machine

/-- 6XNN `LD Vx, nn` (R601). -/
def execLdImm (x : Nibble) (nn : Byte) (s : State) : Result := .next (s.setV x nn)

/-- 7XNN `ADD Vx, nn`: modulo 256, no flag (R602). -/
def execAddImm (x : Nibble) (nn : Byte) (s : State) : Result := .next (s.setV x (s.getV x + nn))

/-- 8XY0 `LD Vx, Vy` (R603). -/
def execLdReg (x y : Nibble) (s : State) : Result := .next (s.setV x (s.getV y))

/-- 8XY1 `OR Vx, Vy` (R604). -/
def execOrReg (x y : Nibble) (s : State) : Result := .next (s.setV x (s.getV x ||| s.getV y))

/-- 8XY2 `AND Vx, Vy` (R605). -/
def execAndReg (x y : Nibble) (s : State) : Result := .next (s.setV x (s.getV x &&& s.getV y))

/-- 8XY3 `XOR Vx, Vy` (R606). -/
def execXorReg (x y : Nibble) (s : State) : Result := .next (s.setV x (s.getV x ^^^ s.getV y))

/-- 8XY4 `ADD Vx, Vy` (R608). -/
def execAddReg (x y : Nibble) (s : State) : Result :=
  let a := s.getV x
  let b := s.getV y
  .next ((s.setV x (a + b)).setFlag (carryFlag a b))

/-- 8XY5 `SUB Vx, Vy` (R609). -/
def execSubReg (x y : Nibble) (s : State) : Result :=
  let a := s.getV x
  let b := s.getV y
  .next ((s.setV x (a - b)).setFlag (noBorrowFlag a b))

/-- 8XY7 `SUBN Vx, Vy` (R611). -/
def execSubnReg (x y : Nibble) (s : State) : Result :=
  let a := s.getV x
  let b := s.getV y
  .next ((s.setV x (b - a)).setFlag (noBorrowFlag b a))

/-- 8XY6 `SHR Vx, Vy`: copy under quirk-A, flag, shift, each reading what the one before left (R610; log entry 16). -/
def execShr (x y : Nibble) (s : State) : Result :=
  let s1 := shiftSource s x y
  let s2 := s1.setFlag (lowBitFlag (s1.getV x))
  .next (s2.setV x (s2.getV x >>> 1))

/-- 8XYE `SHL Vx, Vy`: copy under quirk-A, flag, shift, each reading what the one before left (R612; log entry 16). -/
def execShl (x y : Nibble) (s : State) : Result :=
  let s1 := shiftSource s x y
  let s2 := s1.setFlag (highBitFlag (s1.getV x))
  .next (s2.setV x (s2.getV x <<< 1))

/-- CXNN for a given random byte (R613). -/
def loadRandom (rnd : Byte) (x : Nibble) (nn : Byte) (s : State) : State := s.setV x (rnd &&& nn)

/-- CXNN `RND Vx, nn`: the random byte is a free value (R613; log entry 3). -/
def execRnd (x : Nibble) (nn : Byte) (s : State) : Result :=
  .next (loadRandom (Config.randomByte s.draws) x nn s.useDraw)

end Sys2Proof.Machine
end

