-- ==== Sys2Proof/Machine/ControlFlow.lean ====
section
/-!
DEFINITION. Jumps, calls, returns and skips (41_control_flow.md). On entry `pc` is the address of the instruction
plus 2 (41 R500).
-/

namespace Sys2Proof.Machine

/-- 00EE `RET` (R501). -/
def execRet (s : State) : Result :=
  match s.pop with
  | none => .next (s.raise (.stackUnderflow s.instrAddr))
  | some (w, t) => .next (t.setPc w)

/-- 1NNN `JP nnn` (R502). -/
def execJp (nnn : Addr12) (s : State) : Result := .next (s.setPc (zext16 nnn))

/-- 2NNN `CALL nnn` (R503). -/
def execCall (nnn : Addr12) (s : State) : Result :=
  if s.stackFull then .next (s.raise (.stackOverflow s.instrAddr))
  else .next ((s.push s.pc).setPc (zext16 nnn))

/-- 3XNN `SE Vx, nn` (R504). -/
def execSeImm (x : Nibble) (nn : Byte) (s : State) : Result := .next (s.skipIf (s.getV x == nn))

/-- 4XNN `SNE Vx, nn` (R505). -/
def execSneImm (x : Nibble) (nn : Byte) (s : State) : Result := .next (s.skipIf (s.getV x != nn))

/-- 5XY0 `SE Vx, Vy` (R506). -/
def execSeReg (x y : Nibble) (s : State) : Result := .next (s.skipIf (s.getV x == s.getV y))

/-- 9XY0 `SNE Vx, Vy` (R507). -/
def execSneReg (x y : Nibble) (s : State) : Result := .next (s.skipIf (s.getV x != s.getV y))

/-- BNNN `JP V0, nnn` (R508). -/
def execJpV0 (nnn : Addr12) (s : State) : Result := .next (s.setPc (offsetTarget s nnn))

end Sys2Proof.Machine
end

