-- ==== Sys2Proof/Machine/Display.lean ====
section
/-!
DEFINITION. The framebuffer write engine (44_display.md): clear and sprite draw.
-/

namespace Sys2Proof.Machine

/-- 00E0 `CLS` (R801). -/
def execCls (s : State) : Result := .next (s.setFb Framebuffer.blank)

/-- Draw the sprite rows at the anchor and write VF: the anchor is read before VF is written (R803, D17; log entry 18). -/
def drawSprite (rows : List Byte) (x y : Nibble) (s : State) : State :=
  let c := Canvas.drawRows (anchorColumn s x) rows (anchorRow s y) (s.fb, false)
  (s.setFb c.1).setFlag (collisionFlag c.2)

/-- DXYN `DRW Vx, Vy, n`: all `n` bytes are read before any change (R803). -/
def execDrw (x y n : Nibble) (s : State) : Result :=
  match s.readBytes n.val (blockAddr s) with
  | .error f => .next (s.raise f)
  | .ok rows => .next (drawSprite rows x y s)

end Sys2Proof.Machine
end

