-- ==== Sys2Proof/Machine/IndexMemory.lean ====
section
/-!
DEFINITION. Index register and memory instructions (43_index_memory.md).
-/

namespace Sys2Proof.Machine

/-- ANNN `LD I, nnn` (R701). -/
def execLdI (nnn : Addr12) (s : State) : Result := .next (s.setIndex (zext16 nnn))

/-- FX1E `ADD I, Vx` (R702). -/
def execAddI (x : Nibble) (s : State) : Result :=
  let sum := s.index.toNat + (s.getV x).toNat
  let t := s.setIndex (BitVec.ofNat 16 sum)
  .next (if s.config.quirkC && indexOverflow sum then t.setFlag 1 else t)

/-- FX29 `LD F, Vx`; above 15 the diagnostic InvalidDigit and no other change (R703). -/
def execLdF (x : Nibble) (s : State) : Result :=
  let d := s.getV x
  .next (if d.toNat ≤ 15 then s.setIndex (glyphAddr d.toNat) else s.invalidDigit (encode (.ldF x)) d)

/-- FX33 `LD B, Vx` (R704). -/
def execLdB (x : Nibble) (s : State) : Result :=
  (State.storeBytes (decimalDigits (s.getV x)) (blockAddr s) s).result

/-- FX55 `LD [I], Vx` (R705). -/
def execStoreRegs (x : Nibble) (s : State) : Result :=
  ((State.storeBytes (regBytes s x) (blockAddr s) s).andThen (incrementIndex x)).result

/-- FX65 `LD Vx, [I]` (R706). -/
def execLoadRegs (x : Nibble) (s : State) : Result :=
  ((State.loadRegisters (regRange x) (blockAddr s) s).andThen (incrementIndex x)).result

end Sys2Proof.Machine
end

