-- ==== Sys2Proof/Machine/TimerKeypad.lean ====
section
/-!
DEFINITION. Timer and keypad instructions (45_timer_keypad.md).
-/

namespace Sys2Proof.Machine

/-- Skip when the key indexed by `V[x]` is in the given position; above 15 the fatal fault KeyIndexOutOfRange
(R900-R902; D18, log entry 19). -/
def skipOnKey (down : Bool) (x : Nibble) (s : State) : State :=
  match keyIndex (s.getV x) with
  | none => s.raise (.keyIndexOutOfRange s.instrAddr (s.getV x))
  | some k => s.skipIf (s.keyDown k == down)

/-- EX9E `SKP Vx` (R901). -/
def execSkp (x : Nibble) (s : State) : Result := .next (skipOnKey true x s)

/-- EXA1 `SKNP Vx` (R902). -/
def execSknp (x : Nibble) (s : State) : Result := .next (skipOnKey false x s)

/-- FX07 `LD Vx, DT` (R903). -/
def execLdVxDt (x : Nibble) (s : State) : Result := .next (s.setV x s.dt)

/-- FX15 `LD DT, Vx` (R904). -/
def execLdDtVx (x : Nibble) (s : State) : Result := .next (s.setDt (s.getV x))

/-- FX18 `LD ST, Vx` (R905). -/
def execLdStVx (x : Nibble) (s : State) : Result := .next (s.setSt (s.getV x))

/-- FX0A while Idle or WaitingForPress (R906, R907): with no key down wait; else record a key that is down, and under
quirk-E wait for its release. -/
def awaitPress (x : Nibble) (s : State) : State :=
  match s.pickKey with
  | none => (s.setLatch .waitingForPress).stay
  | some k =>
    let t := (s.setV x (keyByte k)).useDraw
    if t.config.quirkE then (t.setLatch (.waitingForRelease k)).stay else t.setLatch .idle

/-- FX0A while WaitingForRelease(k) (R906, R907). -/
def awaitRelease (k : Nibble) (s : State) : State :=
  if s.keyDown k then s.stay else s.setLatch .idle

/-- FX0A `LD Vx, K` (R906). -/
def execLdVxK (x : Nibble) (s : State) : Result :=
  match s.latch with
  | .idle => .next (awaitPress x s)
  | .waitingForPress => .next (awaitPress x s)
  | .waitingForRelease k => .next (awaitRelease k s)

end Sys2Proof.Machine
end

