-- ==== Sys2Proof/Machine/Step.lean ====
section
/-!
DEFINITION. The step (40_cycle.md R413) and the placing of one instruction where the step fetches it.
-/

namespace Sys2Proof.Machine

/-- Execute the word fetched, in the state whose `pc` has been advanced: the instruction of the row it matches (40 R406),
or the diagnostic UnknownOpcode (40 R407). -/
def execWord (w : Word) (s : State) : Result :=
  match decodeWord w with
  | some i => exec i s
  | none => .next (s.unknownOpcode w)

/-- One step (40 R413): enabled only while Running (R401); fetch (R402), a fetch fault taken with `pc` not advanced
(R403); advance (R404); decode and execute (R405-R407). -/
def step (s : State) : Host.Outcome State Fault Refusal :=
  match s.status with
  | .faulted f => .fault (.runFaulted f)
  | .running =>
    match s.fetch with
    | .error f => .next (s.raise f)
    | .ok w => execWord w s.advance

/-- What a fetch needs beside the bytes: a run that is not faulted and a `pc` whose two bytes lie in memory; a state that
has both is left as it is. -/
def State.readyToFetch (s : State) : State :=
  if s.pc.toNat + 1 < Config.memSize then s.setStatus .running
  else (s.setStatus .running).setPc (BitVec.ofNat 16 Config.progBase)

/-- `s` with the instruction whose bits are `w` stored at `pc`, so that the next step fetches and runs exactly it (log
entry 8). From a running state whose `pc` is in memory, only the two bytes at `pc` change. -/
def State.withFetchWord (s : State) (nbits w : Nat) : State :=
  let t := s.readyToFetch
  t.setMem (t.mem.writeList t.pc.toNat [highByte (tableWord nbits w), lowByte (tableWord nbits w)])

end Sys2Proof.Machine
end

