-- ==== Sys2Proof/Machine/HostInterface.lean ====
section
/-!
DEFINITION. What the host can do to the core (60_exceptions.md R1030-R1035; 70_reset_and_hazards.md R1100-R1102). None
of it happens inside a step (log entry 9).
-/

namespace Sys2Proof.Machine

/-- A timer one tick later: never below zero (60 R1030). -/
def timerTick (b : Byte) : Byte := if b.toNat = 0 then 0 else b - 1

/-- `tick()`: both timers count down and nothing else changes (60 R1030). -/
def State.tick (s : State) : State := (s.setDt (timerTick s.dt)).setSt (timerTick s.st)

/-- The `tone` output: `ST > 0` (60 R1033). -/
def State.tone (s : State) : Bool := decide (0 < s.st.toNat)

/-- The framebuffer output (60 R1032). -/
def State.present (s : State) : Framebuffer := s.fb

/-- The keypad the host feeds to the coming steps (60 R1034; log entry 2). -/
def State.poll (s : State) (k : Keypad) : State := { s with keys := k }

/-- `reset()`: CpuState, framebuffer and status as at construction; memory, call stack, diagnostics and configuration
unchanged (70 R1102; D22, log entry 21). The model's inputs `keys` and `draws` are no part of CpuState. -/
def State.hostReset (s : State) : State :=
  { s with
    v := State.reset.v
    index := State.reset.index
    pc := State.reset.pc
    dt := State.reset.dt
    st := State.reset.st
    latch := State.reset.latch
    fb := State.reset.fb
    status := State.reset.status }

/-- The memory after construction: the font at 0x050, the ROM at 0x200, 0 elsewhere (70 R1100). -/
def loadedMemory (font rom : List Byte) : Memory :=
  Memory.writeList (Memory.writeList [] Config.fontBase font) Config.progBase rom

/-- `load(font, rom)`: a newly constructed core, or CapacityExceeded with the rejected length and nothing constructed (70
R1100, R1101; log entry 11). The configuration and the model's inputs are those of `s`. -/
def State.load (s : State) (font rom : List Byte) : Except FatalFault State :=
  if !romFits rom then .error (.capacityExceeded rom.length)
  else if !fontFits font then .error (.capacityExceeded font.length)
  else .ok { State.reset with
    mem := loadedMemory font rom
    config := s.config
    keys := s.keys
    draws := s.draws }

/-- Configuration, set before a run (60 R1035): quirks and stack limit. -/
def State.configure (s : State) (c : Configuration) : State := { s with config := c }

/-- The operations of the host that act on the core (60 R1035). -/
inductive HostOp where
  | load (font rom : List Byte)
  | poll (k : Keypad)
  | step
  | tick
  | reset

/-- The state after one host operation: a refused load constructs nothing (70 R1101), and a step that is not enabled
changes nothing (40 R401). -/
def HostOp.apply : HostOp → State → State
  | .load font rom, s =>
    match s.load font rom with
    | .ok t => t
    | .error _ => s
  | .poll k, s => s.poll k
  | .step, s =>
    match Sys2Proof.Machine.step s with
    | .next t => t
    | .fault _ => s
    | .refused _ => s
  | .tick, s => s.tick
  | .reset, s => s.hostReset

/-- A host schedule: operations in order. -/
def runOps : List HostOp → State → State
  | [], s => s
  | o :: os, s => runOps os (o.apply s)

/-- Up to `n` steps of one tick; a fatal fault ends them (60 R1031). -/
def runSteps : Nat → State → State
  | 0, s => s
  | n + 1, s =>
    match s.status with
    | .faulted _ => s
    | .running => runSteps n (HostOp.apply .step s)

/-- One tick of the host's schedule with `STEPS_PER_TICK` steps: poll, steps, present, `tick()` (60 R1031). The second
component is the framebuffer presented. DESIGN CHOICE (log entry 25): after a step that faulted, neither present nor `tick()`
is done in that tick; R1031 stops the tick's steps and leaves these two open. -/
def hostTick (stepsPerTick : Nat) (k : Keypad) (s : State) : State × Option Framebuffer :=
  let t := runSteps stepsPerTick (s.poll k)
  match t.status with
  | .faulted _ => (t, none)
  | .running => (t.tick, some t.present)

end Sys2Proof.Machine
end

