-- ==== Sys2Proof/Safety.lean ====
section
/-!
DEFINITION. The terms claims use: the next instruction, the parked state, what an instruction may write (its frame), the
pixels a sprite covers, and the invariant of the machine.
-/

namespace Sys2Proof.Machine

/-- The instruction the next step fetches; none when the fetch faults or the word is an unknown encoding. -/
def State.nextInstr (s : State) : Option Instr :=
  match s.fetch with
  | .ok w => decodeWord w
  | .error _ => none

/-- The parked state: Running, and the word at `pc` is `1NNN` with `NNN = pc` (60 R1044). -/
def Parked (s : State) : Prop :=
  s.status = .running ∧ ∃ nnn : Addr12, s.nextInstr = some (.jp nnn) ∧ s.pc.toNat = nnn.toNat

/-- A word of none of the table's rows, by the patterns of 30 R309. -/
def UnknownWord (w : Word) : Prop :=
  let op := w.toNat / 4096
  let n := w.toNat % 16
  let kk := w.toNat % 256
  (op = 0x0 ∧ w.toNat ≠ 0x00E0 ∧ w.toNat ≠ 0x00EE) ∨
  (op = 0x5 ∧ n ≠ 0) ∨
  (op = 0x8 ∧ n ∈ [0x8, 0x9, 0xA, 0xB, 0xC, 0xD, 0xF]) ∨
  (op = 0x9 ∧ n ≠ 0) ∨
  (op = 0xE ∧ kk ∉ [0x9E, 0xA1]) ∨
  (op = 0xF ∧ kk ∉ [0x07, 0x0A, 0x15, 0x18, 0x1E, 0x29, 0x33, 0x55, 0x65])

/-- The pieces of the state an instruction may write. `storeLen` bytes from `storeAt` upward may be stored to. -/
structure Writes where
  regs : List Nibble := []
  index : Bool := false
  pc : Bool := false
  dt : Bool := false
  st : Bool := false
  latch : Bool := false
  fb : Bool := false
  stack : Bool := false
  storeAt : Nat := 0
  storeLen : Nat := 0
  status : Bool := false
  diags : Bool := false
  draws : Bool := false

/-- Everything outside `w` is the same in `t` as in `s`: every other register, every byte outside the stored ones, and
the configuration and the keypad input always. -/
structure Unchanged (w : Writes) (s t : State) : Prop where
  regs : ∀ k, k ∉ w.regs → t.getV k = s.getV k
  index : w.index = false → t.index = s.index
  pc : w.pc = false → t.pc = s.pc
  dt : w.dt = false → t.dt = s.dt
  st : w.st = false → t.st = s.st
  latch : w.latch = false → t.latch = s.latch
  fb : w.fb = false → t.fb = s.fb
  stack : w.stack = false → t.stack = s.stack
  bytes : ∀ a, a < w.storeAt ∨ w.storeAt + w.storeLen ≤ a → t.byteAt a = s.byteAt a
  status : w.status = false → t.status = s.status
  diags : w.diags = false → t.diags = s.diags
  draws : w.draws = false → t.draws = s.draws
  config : t.config = s.config
  keys : t.keys = s.keys

/-- Only the registers listed may change. -/
def Writes.onlyRegs (r : List Nibble) : Writes := { regs := r }

/-- Only `pc` may change. -/
def Writes.onlyPc : Writes := { pc := true }

/-- Only `status` may change: what taking a fatal fault writes (60 R1001, R1004). -/
def Writes.onlyStatus : Writes := { status := true }

end Sys2Proof.Machine

namespace Sys2Proof

open Sys2Proof.Machine

/-- What each instruction may write in state `s` (10 R104, R106, R109, R110, R113; 20 R209; 40 R410; 43 R700; 44 R800);
`status` for those that can raise a fatal fault (60 R1002). -/
def Instr.writes (i : Instr) (s : State) : Writes :=
  match i with
  | .cls => { fb := true }
  | .ret => { pc := true, stack := true, status := true }
  | .jp _ => Writes.onlyPc
  | .call _ => { pc := true, stack := true, status := true }
  | .seImm _ _ => Writes.onlyPc
  | .sneImm _ _ => Writes.onlyPc
  | .seReg _ _ => Writes.onlyPc
  | .ldImm x _ => Writes.onlyRegs [x]
  | .addImm x _ => Writes.onlyRegs [x]
  | .ldReg x _ => Writes.onlyRegs [x]
  | .orReg x _ => Writes.onlyRegs [x]
  | .andReg x _ => Writes.onlyRegs [x]
  | .xorReg x _ => Writes.onlyRegs [x]
  | .addReg x _ => Writes.onlyRegs [x, vf]
  | .subReg x _ => Writes.onlyRegs [x, vf]
  | .shr x _ => Writes.onlyRegs [x, vf]
  | .subnReg x _ => Writes.onlyRegs [x, vf]
  | .shl x _ => Writes.onlyRegs [x, vf]
  | .sneReg _ _ => Writes.onlyPc
  | .ldI _ => { index := true }
  | .jpV0 _ => Writes.onlyPc
  | .rnd x _ => { regs := [x], draws := true }
  | .drw _ _ _ => { regs := [vf], fb := true, status := true }
  | .skp _ => { pc := true, status := true }
  | .sknp _ => { pc := true, status := true }
  | .ldVxDt x => Writes.onlyRegs [x]
  | .ldVxK x => { regs := [x], pc := true, latch := true, draws := true }
  | .ldDtVx _ => { dt := true }
  | .ldStVx _ => { st := true }
  | .addI _ => { index := true, regs := if s.config.quirkC then [vf] else [] }
  | .ldF _ => { index := true, diags := true }
  | .ldB _ => { storeAt := blockAddr s, storeLen := 3, status := true }
  | .storeRegs x => { storeAt := blockAddr s, storeLen := x.val + 1, index := s.config.quirkD, status := true }
  | .loadRegs x => { regs := regRange x, index := s.config.quirkD, status := true }

/-- The families of the opcode table, by the section file of the spec. -/
inductive Family where
  | controlFlow
  | alu
  | indexMemory
  | display
  | timerKeypad
  deriving DecidableEq, Repr

/-- The family of each instruction (spec/INDEX.md). -/
def Instr.family : Instr → Family
  | .cls => .display
  | .ret => .controlFlow
  | .jp _ => .controlFlow
  | .call _ => .controlFlow
  | .seImm _ _ => .controlFlow
  | .sneImm _ _ => .controlFlow
  | .seReg _ _ => .controlFlow
  | .ldImm _ _ => .alu
  | .addImm _ _ => .alu
  | .ldReg _ _ => .alu
  | .orReg _ _ => .alu
  | .andReg _ _ => .alu
  | .xorReg _ _ => .alu
  | .addReg _ _ => .alu
  | .subReg _ _ => .alu
  | .shr _ _ => .alu
  | .subnReg _ _ => .alu
  | .shl _ _ => .alu
  | .sneReg _ _ => .controlFlow
  | .ldI _ => .indexMemory
  | .jpV0 _ => .controlFlow
  | .rnd _ _ => .alu
  | .drw _ _ _ => .display
  | .skp _ => .timerKeypad
  | .sknp _ => .timerKeypad
  | .ldVxDt _ => .timerKeypad
  | .ldVxK _ => .timerKeypad
  | .ldDtVx _ => .timerKeypad
  | .ldStVx _ => .timerKeypad
  | .addI _ => .indexMemory
  | .ldF _ => .indexMemory
  | .ldB _ => .indexMemory
  | .storeRegs _ => .indexMemory
  | .loadRegs _ => .indexMemory

/-- The destination registers of an instruction: those its rule writes as `V[x]`, not as a flag. -/
def Instr.destinations : Instr → List Nibble
  | .cls => []
  | .ret => []
  | .jp _ => []
  | .call _ => []
  | .seImm _ _ => []
  | .sneImm _ _ => []
  | .seReg _ _ => []
  | .ldImm x _ => [x]
  | .addImm x _ => [x]
  | .ldReg x _ => [x]
  | .orReg x _ => [x]
  | .andReg x _ => [x]
  | .xorReg x _ => [x]
  | .addReg x _ => [x]
  | .subReg x _ => [x]
  | .shr x _ => [x]
  | .subnReg x _ => [x]
  | .shl x _ => [x]
  | .sneReg _ _ => []
  | .ldI _ => []
  | .jpV0 _ => []
  | .rnd x _ => [x]
  | .drw _ _ _ => []
  | .skp _ => []
  | .sknp _ => []
  | .ldVxDt x => [x]
  | .ldVxK x => [x]
  | .ldDtVx _ => []
  | .ldStVx _ => []
  | .addI _ => []
  | .ldF _ => []
  | .ldB _ => []
  | .storeRegs _ => []
  | .loadRegs x => regRange x

end Sys2Proof

namespace Sys2Proof.Machine

/-- The sprite at column `x0`, row `y0` with the given rows has a 1-bit at column `x`, row `y` (44 R802): row `r` of the
sprite is the byte `rows[r]`, its bit `7 - b` is the pixel at horizontal offset `b`. -/
def spriteBit (rows : List Byte) (x0 y0 x y : Nat) : Bool :=
  decide (y0 ≤ y) && decide (x0 ≤ x) && decide (x < x0 + 8) && (rows.getD (y - y0) 0).getLsbD (7 - (x - x0))

/-- The `n` bytes from address `a` upward. -/
def State.bytesFrom (s : State) (a n : Nat) : List Byte := (List.range n).map fun k => s.byteAt (a + k)

/-- THE INVARIANT of the machine. -/
structure Inv (s : State) : Prop where
  /-- Memory is in canonical form. -/
  mem : s.mem.wf = true
  /-- `pc` stays in 0..0x10FE (10 R109). -/
  pc : s.pc.toNat ≤ 0x10FE
  /-- Every return address was an advanced `pc`: at most 0x1000 (10 R110, 41 R503). -/
  returns : ∀ w ∈ s.stack, w.toNat ≤ 0x1000
  /-- The stack holds at most `STACK_LIMIT` entries (10 R100, R111). -/
  depth : ∀ n, s.config.stackLimit = some n → s.stack.length ≤ n
  /-- The configuration is legal (10 R116). -/
  config : s.config.wellFormed = true
  /-- Outside an FX0A wait the latch is Idle (10 R113): a latch that is not Idle means the run is Running and the next
  instruction is an FX0A. -/
  latch : s.latch ≠ .idle → s.status = .running ∧ ∃ x, s.nextInstr = some (.ldVxK x)
  /-- WaitingForRelease is entered only with quirk-E enabled (45 R907). -/
  release : ∀ k, s.latch = .waitingForRelease k → s.config.quirkE = true

end Sys2Proof.Machine
end

