-- ==== Sys2Proof/Certificates/Slice0/Obligations.lean ====
section
/-!
DEFINITION. The statements for the provers, from the numbered rules of spec/. `exec` is called with `pc` already advanced
(40 R404), as the rules of 41 to 45 read it; `step` fetches, advances and calls it. Where a result is the model's or the
spec's own choice, the docstring names the decision or the log entry.
-/

open Sys2Proof Sys2Proof.Machine

/-! Encoding (30_encoding.md). -/

/-- Decoding the word, or the bytes, of any instruction gives the instruction back, and leaves the following bytes
(30 R300-R308). -/
def Obligations.DecodeOfEncode : Prop :=
  ∀ (i : Instr) (rest : List Byte),
    decodeWord (encode i) = some i ∧ decode (encodeBytes i ++ rest) = some (i, rest)

/-- A word that decodes is the word of the instruction it decodes to: each word has one meaning (30 R310, R311). -/
def Obligations.EncodeOfDecode : Prop :=
  ∀ (w : Word) (i : Instr), decodeWord w = some i → encode i = w

/-- The words without a meaning are exactly the patterns of 30 R309 (5XYn and 9XYn by the spec's decision D13, log
entry 15). -/
def Obligations.UnknownWordsAreThePatterns : Prop :=
  ∀ w : Word, decodeWord w = none ↔ UnknownWord w

/-- No word matches two rows of the opcode table, and the decoder accepts exactly the words some row matches (30 R310,
R311). -/
def Obligations.OpcodeRowsDisjointAndDecoded : Prop :=
  (∀ (w : Word) (r r' : Row), r ∈ opcodeRows → r' ∈ opcodeRows → r.accepts w = true → r'.accepts w = true → r = r') ∧
  (∀ w : Word, wellFormedWord w = (decodeWord w).isSome)

/-- A word of each family, written out from its encoding, decodes to its instruction (41 to 45, the Encoding lines). -/
def Obligations.FamilySampleWords : Prop :=
  decodeWord 0b0000000011100000#16 = some .cls ∧
  decodeWord 0b0010001100000000#16 = some (.call 0x300#12) ∧
  decodeWord 0b1000000100100100#16 = some (.addReg 1 2) ∧
  decodeWord 0b1101000000010101#16 = some (.drw 0 1 5) ∧
  decodeWord 0b1111001001010101#16 = some (.storeRegs 2) ∧
  decodeWord 0b1110010110011110#16 = some (.skp 5) ∧
  decodeWord 0b1000000000011000#16 = none

/-! The step (40_cycle.md). -/

/-- When the two bytes at `pc`, high byte first, decode to an instruction, a step of a running core is that
instruction's meaning in the state whose `pc` is 2 further (40 R402, R404, R406). -/
def Obligations.StepRunsTheDecodedInstruction : Prop :=
  ∀ (s : State) (i : Instr), s.status = .running → s.pc.toNat + 1 < 4096 →
    decode [s.byteAt s.pc.toNat, s.byteAt (s.pc.toNat + 1)] = some (i, []) →
    step s = exec i (s.setPc (s.pc + 2))

/-- An unknown encoding records UnknownOpcode with its address and word, and changes nothing else but the fetch advance
(40 R407; the record's form is the spec's decision D24, log entry 22). -/
def Obligations.UnknownEncodingOnlyRecords : Prop :=
  ∀ s : State, s.status = .running → s.pc.toNat + 1 < 4096 →
    decode [s.byteAt s.pc.toNat, s.byteAt (s.pc.toNat + 1)] = none →
    ∃ t, step s = .next t ∧ t.pc.toNat = s.pc.toNat + 2 ∧
      t.diags = s.diags ++
        [⟨.unknownOpcode, s.pc, wordOfBytes (s.byteAt s.pc.toNat) (s.byteAt (s.pc.toNat + 1)), none⟩] ∧
      Unchanged { pc := true, diags := true } s t

/-- A fetch that leaves memory takes OutOfBounds with the first address outside; `pc` is not advanced and nothing else
changes (40 R403 and 20 R205, by the spec's decisions D11 and D24). -/
def Obligations.FetchOutOfBoundsFaults : Prop :=
  ∀ s : State, s.status = .running → 4096 ≤ s.pc.toNat + 1 →
    ∃ t, step s = .next t ∧
      t.status = .faulted (.outOfBounds (if s.pc.toNat < 4096 then 4096 else s.pc.toNat)) ∧
      Unchanged Writes.onlyStatus s t

/-- Every instruction answers a next state, so a step answers one exactly when the core is Running, and a faulted core has
no step (40 R401, R408, by the spec's decision D11; that a fatal fault is a next state is log entry 1). -/
def Obligations.StepEnabledIffRunning : Prop :=
  (∀ (i : Instr) (s : State), ∃ t, exec i s = .next t) ∧
  ∀ s : State, ((∃ t, step s = .next t) ↔ s.status = .running) ∧
    ∀ f, s.status = .faulted f → step s = .fault (.runFaulted f)

/-! Control flow (41_control_flow.md). -/

/-- RET pops the most recent return address into `pc`; on an empty stack it takes StackUnderflow with the address of the
instruction, and `pc` and the stack stay (41 R501; that a fault is a state with `status` set is the spec's D11 and log
entry 1). -/
def Obligations.ReturnPopsOrUnderflows : Prop :=
  ∀ s : State,
    (∀ (a : Word) (rest : List Word), s.stack = a :: rest →
      ∃ t, exec .ret s = .next t ∧ t.pc = a ∧ t.stack = rest ∧ Unchanged { pc := true, stack := true } s t) ∧
    (s.stack = [] →
      ∃ t, exec .ret s = .next t ∧ t.status = .faulted (.stackUnderflow (s.pc - 2)) ∧
        Unchanged Writes.onlyStatus s t)

/-- JP sets `pc` to the 12-bit address (41 R502); BNNN to the full 12-bit immediate plus V0 (quirk-B) or plus the
register its bits 11 to 8 name, unreduced (41 R508); nothing else changes. The first lines are their encodings. -/
def Obligations.JumpsSetPc : Prop :=
  ∀ (s : State) (nnn : Addr12) (x : Nibble), x.val = nnn.toNat / 256 →
    decodeWord (wordA 0b0001#4 nnn) = some (.jp nnn) ∧
    decodeWord (wordA 0b1011#4 nnn) = some (.jpV0 nnn) ∧
    (∃ t, exec (.jp nnn) s = .next t ∧ t.pc.toNat = nnn.toNat ∧ Unchanged Writes.onlyPc s t) ∧
    (∃ t, exec (.jpV0 nnn) s = .next t ∧ Unchanged Writes.onlyPc s t ∧
      t.pc.toNat = nnn.toNat + (if s.config.quirkB = true then (s.getV 0).toNat else (s.getV x).toNat))

/-- CALL pushes `pc`, already the address after it, and jumps; with STACK_LIMIT entries on the stack it takes
StackOverflow with the address of the instruction, and stack and `pc` stay (41 R503; that a fault is a state with
`status` set is the spec's D11 and log entry 1). -/
def Obligations.CallPushesOrOverflows : Prop :=
  ∀ (s : State) (nnn : Addr12),
    (s.config.stackLimit ≠ some s.stack.length →
      ∃ t, exec (.call nnn) s = .next t ∧ t.pc.toNat = nnn.toNat ∧ t.stack = s.pc :: s.stack ∧
        Unchanged { pc := true, stack := true } s t) ∧
    (s.config.stackLimit = some s.stack.length →
      ∃ t, exec (.call nnn) s = .next t ∧ t.status = .faulted (.stackOverflow (s.pc - 2)) ∧
        Unchanged Writes.onlyStatus s t)

/-- SE and SNE, against an immediate and against a register, skip the next instruction exactly on their condition and
change nothing else (41 R504-R507). The first lines are their encodings; that 5XYn and 9XYn with n not 0 are no instruction
is the spec's decision D13 (30 R304, R309), log entry 15. -/
def Obligations.SkipsOnTheirCondition : Prop :=
  ∀ (s : State) (x y : Nibble) (nn : Byte),
    decodeWord (wordXK 0b0011#4 x nn) = some (.seImm x nn) ∧
    decodeWord (wordXK 0b0100#4 x nn) = some (.sneImm x nn) ∧
    (∀ n, decodeWord (wordXYN 0b0101#4 x y n) = if n = 0 then some (.seReg x y) else none) ∧
    (∀ n, decodeWord (wordXYN 0b1001#4 x y n) = if n = 0 then some (.sneReg x y) else none) ∧
    (∃ t, exec (.seImm x nn) s = .next t ∧ Unchanged Writes.onlyPc s t ∧
      t.pc.toNat = if s.getV x = nn then (s.pc.toNat + 2) % 65536 else s.pc.toNat) ∧
    (∃ t, exec (.sneImm x nn) s = .next t ∧ Unchanged Writes.onlyPc s t ∧
      t.pc.toNat = if s.getV x = nn then s.pc.toNat else (s.pc.toNat + 2) % 65536) ∧
    (∃ t, exec (.seReg x y) s = .next t ∧ Unchanged Writes.onlyPc s t ∧
      t.pc.toNat = if s.getV x = s.getV y then (s.pc.toNat + 2) % 65536 else s.pc.toNat) ∧
    (∃ t, exec (.sneReg x y) s = .next t ∧ Unchanged Writes.onlyPc s t ∧
      t.pc.toNat = if s.getV x = s.getV y then s.pc.toNat else (s.pc.toNat + 2) % 65536)

/-- A CALL whose target holds a RET comes back to the instruction after it with the stack as before (41 R510, which the
spec marks as derived). -/
def Obligations.CallThenReturnRestores : Prop :=
  ∀ (s : State) (nnn : Addr12), s.status = .running → s.nextInstr = some (.call nnn) →
    s.config.stackLimit ≠ some s.stack.length → (s.setPc (zext16 nnn)).nextInstr = some .ret →
    ∃ t u, step s = .next t ∧ t.pc.toNat = nnn.toNat ∧ step t = .next u ∧ u.pc.toNat = s.pc.toNat + 2 ∧
      Unchanged Writes.onlyPc s u

/-! Register and arithmetic (42_alu.md). -/

/-- The loads and the bitwise instructions write their destination and nothing else; VF is not reset (42 R601,
R603-R606). The first lines are their encodings. -/
def Obligations.LoadsAndBitwise : Prop :=
  ∀ (s : State) (x y : Nibble) (nn : Byte),
    decodeWord (wordXK 0b0110#4 x nn) = some (.ldImm x nn) ∧
    decodeWord (wordXYN 0b1000#4 x y 0b0000#4) = some (.ldReg x y) ∧
    decodeWord (wordXYN 0b1000#4 x y 0b0001#4) = some (.orReg x y) ∧
    decodeWord (wordXYN 0b1000#4 x y 0b0010#4) = some (.andReg x y) ∧
    decodeWord (wordXYN 0b1000#4 x y 0b0011#4) = some (.xorReg x y) ∧
    (∃ t, exec (.ldImm x nn) s = .next t ∧ t.getV x = nn ∧ Unchanged (Writes.onlyRegs [x]) s t) ∧
    (∃ t, exec (.ldReg x y) s = .next t ∧ t.getV x = s.getV y ∧ Unchanged (Writes.onlyRegs [x]) s t) ∧
    (∃ t, exec (.orReg x y) s = .next t ∧ Unchanged (Writes.onlyRegs [x]) s t ∧
      ∀ j, (t.getV x).getLsbD j = ((s.getV x).getLsbD j || (s.getV y).getLsbD j)) ∧
    (∃ t, exec (.andReg x y) s = .next t ∧ Unchanged (Writes.onlyRegs [x]) s t ∧
      ∀ j, (t.getV x).getLsbD j = ((s.getV x).getLsbD j && (s.getV y).getLsbD j)) ∧
    (∃ t, exec (.xorReg x y) s = .next t ∧ Unchanged (Writes.onlyRegs [x]) s t ∧
      ∀ j, (t.getV x).getLsbD j = ((s.getV x).getLsbD j != (s.getV y).getLsbD j))

/-- 7XNN adds modulo 256 and writes no flag (42 R602). The first line is its encoding. -/
def Obligations.AddImmediateWrapsWithoutFlag : Prop :=
  ∀ (s : State) (x : Nibble) (nn : Byte),
    decodeWord (wordXK 0b0111#4 x nn) = some (.addImm x nn) ∧
    ∃ t, exec (.addImm x nn) s = .next t ∧ (t.getV x).toNat = ((s.getV x).toNat + nn.toNat) % 256 ∧
      Unchanged (Writes.onlyRegs [x]) s t

/-- 8XY4 writes the sum modulo 256, then VF with the carry; with x = F, VF ends holding the carry (42 R608). The first line is its
encoding. -/
def Obligations.AddWritesCarryLast : Prop :=
  ∀ (s : State) (x y : Nibble),
    decodeWord (wordXYN 0b1000#4 x y 0b0100#4) = some (.addReg x y) ∧
    ∃ t, exec (.addReg x y) s = .next t ∧
      (x ≠ vf → (t.getV x).toNat = ((s.getV x).toNat + (s.getV y).toNat) % 256) ∧
      (t.getV vf).toNat = (if (s.getV x).toNat + (s.getV y).toNat > 255 then 1 else 0) ∧
      Unchanged (Writes.onlyRegs [x, vf]) s t

/-- 8XY5 and 8XY7 write the difference modulo 256, then VF = 1 exactly when there was no borrow; with x = F, VF ends
holding the flag (42 R609, R611). The first lines are their encodings. -/
def Obligations.SubtractsWriteNoBorrowLast : Prop :=
  ∀ (s : State) (x y : Nibble),
    decodeWord (wordXYN 0b1000#4 x y 0b0101#4) = some (.subReg x y) ∧
    decodeWord (wordXYN 0b1000#4 x y 0b0111#4) = some (.subnReg x y) ∧
    (∃ t, exec (.subReg x y) s = .next t ∧
      (x ≠ vf → (t.getV x).toNat = ((s.getV x).toNat + 256 - (s.getV y).toNat) % 256) ∧
      (t.getV vf).toNat = (if (s.getV x).toNat ≥ (s.getV y).toNat then 1 else 0) ∧
      Unchanged (Writes.onlyRegs [x, vf]) s t) ∧
    (∃ t, exec (.subnReg x y) s = .next t ∧
      (x ≠ vf → (t.getV x).toNat = ((s.getV y).toNat + 256 - (s.getV x).toNat) % 256) ∧
      (t.getV vf).toNat = (if (s.getV y).toNat ≥ (s.getV x).toNat then 1 else 0) ∧
      Unchanged (Writes.onlyRegs [x, vf]) s t)

/-- 8XY6 shifts Vy (quirk-A) or Vx right by one into Vx and writes VF with the bit shifted out (42 R610); with x = F the
sequential order leaves VF = 0 (the spec's decision D15, log entry 16). -/
def Obligations.ShiftRightAndFlag : Prop :=
  ∀ (s : State) (x y : Nibble),
    let a := if s.config.quirkA = true then (s.getV y).toNat else (s.getV x).toNat
    ∃ t, exec (.shr x y) s = .next t ∧
      (x ≠ vf → (t.getV x).toNat = a / 2 ∧ (t.getV vf).toNat = a % 2) ∧
      (x = vf → (t.getV vf).toNat = 0) ∧
      Unchanged (Writes.onlyRegs [x, vf]) s t

/-- 8XYE shifts Vy (quirk-A) or Vx left by one into Vx and writes VF with the bit shifted out (42 R612); with x = F the
sequential order leaves VF = twice the flag (the spec's decision D15, log entry 16). -/
def Obligations.ShiftLeftAndFlag : Prop :=
  ∀ (s : State) (x y : Nibble),
    let a := if s.config.quirkA = true then (s.getV y).toNat else (s.getV x).toNat
    ∃ t, exec (.shl x y) s = .next t ∧
      (x ≠ vf → (t.getV x).toNat = 2 * a % 256 ∧ (t.getV vf).toNat = a / 128) ∧
      (x = vf → (t.getV vf).toNat = 2 * (a / 128)) ∧
      Unchanged (Writes.onlyRegs [x, vf]) s t

/-- CXNN writes the random byte masked by the immediate, whatever the random byte is (42 R613, a free value by the spec's
decision D21, log entry 3): a mask of 0 gives 0, and no bit outside the mask is set. -/
def Obligations.RandomByteIsMasked : Prop :=
  ∀ (s : State) (x : Nibble) (nn : Byte),
    ∃ t, exec (.rnd x nn) s = .next t ∧ t.draws = s.draws + 1 ∧
      (∀ j, (t.getV x).getLsbD j = ((Config.randomByte s.draws).getLsbD j && nn.getLsbD j)) ∧
      (nn = 0 → t.getV x = 0) ∧
      Unchanged { regs := [x], draws := true } s t

/-! Index register and memory (43_index_memory.md). -/

/-- ANNN loads I with the 12-bit immediate and changes nothing else (43 R701). The first line is its encoding. -/
def Obligations.LoadIndexSetsIndex : Prop :=
  ∀ (s : State) (nnn : Addr12),
    decodeWord (wordA 0b1010#4 nnn) = some (.ldI nnn) ∧
    ∃ t, exec (.ldI nnn) s = .next t ∧ t.index.toNat = nnn.toNat ∧ Unchanged { index := true } s t

/-- FX1E adds Vx to I modulo 65536; under quirk-C a sum of MEM_SIZE or more sets VF to 1, and VF is unchanged otherwise
(43 R702, by the spec's decisions D9 and D16, log entry 17). -/
def Obligations.AddIndexAndOverflowFlag : Prop :=
  ∀ (s : State) (x : Nibble),
    ∃ t, exec (.addI x) s = .next t ∧
      t.index.toNat = (s.index.toNat + (s.getV x).toNat) % 65536 ∧
      t.getV vf = (if s.config.quirkC = true ∧ s.index.toNat + (s.getV x).toNat ≥ 4096 then 1 else s.getV vf) ∧
      Unchanged { index := true, regs := [vf] } s t

/-- FX29 points I at the glyph of a digit 0 to 15; any other value leaves I and records InvalidDigit with the address, the
word and the value (43 R703; the record's form is the spec's decision D24, log entry 22). -/
def Obligations.FontGlyphOrInvalidDigit : Prop :=
  ∀ (s : State) (x : Nibble),
    ((s.getV x).toNat ≤ 15 →
      ∃ t, exec (.ldF x) s = .next t ∧ t.index.toNat = 0x050 + 5 * (s.getV x).toNat ∧
        Unchanged { index := true } s t) ∧
    (15 < (s.getV x).toNat →
      ∃ t, exec (.ldF x) s = .next t ∧
        t.diags = s.diags ++
          [⟨.invalidDigit, s.pc - 2, BitVec.ofNat 16 (0xF029 + 256 * x.val), some (s.getV x)⟩] ∧
        Unchanged { diags := true } s t)

/-- FX33 stores the hundreds, tens and units of Vx at I, I+1, I+2 when all three are in memory; I and every other byte
are unchanged (43 R704). -/
def Obligations.DecimalDigitsStored : Prop :=
  ∀ (s : State) (x : Nibble), s.index.toNat + 2 < 4096 →
    ∃ t, exec (.ldB x) s = .next t ∧
      (t.byteAt (blockAddr s)).toNat = (s.getV x).toNat / 100 ∧
      (t.byteAt (blockAddr s + 1)).toNat = (s.getV x).toNat / 10 % 10 ∧
      (t.byteAt (blockAddr s + 2)).toNat = (s.getV x).toNat % 10 ∧
      Unchanged { storeAt := blockAddr s, storeLen := 3 } s t

/-- FX55 stores V0 to Vx at I to I+x when all are in memory, and adds x+1 to I under quirk-D (43 R705). -/
def Obligations.StoreRegistersBlock : Prop :=
  ∀ (s : State) (x : Nibble), s.index.toNat + x.val < 4096 →
    ∃ t, exec (.storeRegs x) s = .next t ∧
      (∀ k : Nibble, k ≤ x → t.byteAt (blockAddr s + k.val) = s.getV k) ∧
      t.index.toNat = (if s.config.quirkD = true then s.index.toNat + x.val + 1 else s.index.toNat) ∧
      Unchanged { storeAt := blockAddr s, storeLen := x.val + 1, index := true } s t

/-- FX65 loads V0 to Vx from I to I+x when all are in memory, and adds x+1 to I under quirk-D (43 R706). -/
def Obligations.LoadRegistersBlock : Prop :=
  ∀ (s : State) (x : Nibble), s.index.toNat + x.val < 4096 →
    ∃ t, exec (.loadRegs x) s = .next t ∧
      (∀ k : Nibble, k ≤ x → t.getV k = s.byteAt (blockAddr s + k.val)) ∧
      (∀ k : Nibble, x < k → t.getV k = s.getV k) ∧
      t.index.toNat = (if s.config.quirkD = true then s.index.toNat + x.val + 1 else s.index.toNat) ∧
      Unchanged { regs := regRange x, index := true } s t

/-- A store block that leaves memory takes OutOfBounds with the first address outside; the bytes before it are stored, no
other byte changes, and I and `pc` stay (43 R704, R705; 40 R409 by the spec's decision D12, log entry 14). -/
def Obligations.StoreBlockFaultKeepsEarlierBytes : Prop :=
  ∀ (s : State) (x : Nibble),
    (4096 ≤ s.index.toNat + 2 →
      ∃ t, exec (.ldB x) s = .next t ∧
        t.status = .faulted (.outOfBounds (if s.index.toNat < 4096 then 4096 else s.index.toNat)) ∧
        (s.index.toNat < 4096 → (t.byteAt (blockAddr s)).toNat = (s.getV x).toNat / 100) ∧
        (s.index.toNat + 1 < 4096 → (t.byteAt (blockAddr s + 1)).toNat = (s.getV x).toNat / 10 % 10) ∧
        Unchanged { storeAt := blockAddr s, storeLen := 4096 - blockAddr s, status := true } s t) ∧
    (4096 ≤ s.index.toNat + x.val →
      ∃ t, exec (.storeRegs x) s = .next t ∧
        t.status = .faulted (.outOfBounds (if s.index.toNat < 4096 then 4096 else s.index.toNat)) ∧
        (∀ k : Nibble, blockAddr s + k.val < 4096 → t.byteAt (blockAddr s + k.val) = s.getV k) ∧
        Unchanged { storeAt := blockAddr s, storeLen := 4096 - blockAddr s, status := true } s t)

/-- A load block that leaves memory takes OutOfBounds with the first address outside; the registers before it are loaded,
the others and I stay (43 R706; 40 R409 by the spec's decision D12, log entry 14). -/
def Obligations.LoadBlockFaultKeepsEarlierLoads : Prop :=
  ∀ (s : State) (x : Nibble), 4096 ≤ s.index.toNat + x.val →
    ∃ t, exec (.loadRegs x) s = .next t ∧
      t.status = .faulted (.outOfBounds (if s.index.toNat < 4096 then 4096 else s.index.toNat)) ∧
      (∀ k : Nibble, t.getV k = if blockAddr s + k.val < 4096 then s.byteAt (blockAddr s + k.val) else s.getV k) ∧
      Unchanged { regs := regRange x, status := true } s t

/-- Code that FX55 stores over the next instruction is what the next step fetches, high byte first (20 R214, which the
spec marks as derived). -/
def Obligations.StoredCodeIsFetched : Prop :=
  ∀ (s : State) (x : Nibble), s.status = .running → s.nextInstr = some (.storeRegs x) → 1 ≤ x.val →
    s.index.toNat = s.pc.toNat + 2 → s.index.toNat + x.val < 4096 →
    ∃ t, step s = .next t ∧ t.fetch = .ok (wordOfBytes (s.getV 0) (s.getV 1))

/-- A memory in canonical form is determined by what it reads as: equal reads, equal data (the model's form of 20 R200). -/
def Obligations.CanonicalMemoryIsUnique : Prop :=
  ∀ m m' : Memory, m.wf = true → m'.wf = true → (∀ a, a < 4096 → m.read a = m'.read a) → m = m'

/-! Display (44_display.md). -/

/-- CLS, the word 0x00E0, unlights every pixel and changes nothing else (44 R801). -/
def Obligations.ClearScreenUnlightsEveryPixel : Prop :=
  ∀ s : State,
    decodeWord 0x00E0#16 = some .cls ∧
    ∃ t, exec .cls s = .next t ∧ (∀ y x, y < 32 → x < 64 → t.fb.pixel y x = false) ∧ Unchanged { fb := true } s t

/-- DXYN flips exactly the on-screen pixels the sprite's 1-bits cover, anchored at (Vx mod 64, Vy mod 32) and clipped, and
leaves VF = 1 when one of them was lit, else 0, when all its bytes are in memory (44 R802, R803; that the anchor is read
before VF is cleared is the spec's decision D17, log entry 18). -/
def Obligations.DrawFlipsTheSprite : Prop :=
  ∀ (s : State) (x y n : Nibble), n.val = 0 ∨ s.index.toNat + n.val ≤ 4096 →
    let cover := spriteBit (s.bytesFrom s.index.toNat n.val) ((s.getV x).toNat % 64) ((s.getV y).toNat % 32)
    ∃ t, exec (.drw x y n) s = .next t ∧
      (∀ r c, r < 32 → c < 64 → t.fb.pixel r c = (s.fb.pixel r c != cover c r)) ∧
      (t.getV vf = 1 ↔ ∃ r c, r < 32 ∧ c < 64 ∧ cover c r = true ∧ s.fb.pixel r c = true) ∧
      (t.getV vf = 0 ∨ t.getV vf = 1) ∧
      Unchanged { regs := [vf], fb := true } s t

/-- A DXYN one of whose bytes lies outside memory takes OutOfBounds with the first such address and changes nothing else,
clipped rows counted too (44 R803, by the spec's decision D17, log entry 18). -/
def Obligations.DrawFaultChangesNothingElse : Prop :=
  ∀ (s : State) (x y n : Nibble), 0 < n.val → 4096 < s.index.toNat + n.val →
    ∃ t, exec (.drw x y n) s = .next t ∧
      t.status = .faulted (.outOfBounds (if s.index.toNat < 4096 then 4096 else s.index.toNat)) ∧
      Unchanged Writes.onlyStatus s t

/-- XOR involution: the same sprite drawn twice at the same anchor restores every pixel, and the second draw leaves VF = 1
exactly when a drawn 1-bit fell on a pixel unlit before the first (44 R804, which the spec marks as derived). -/
def Obligations.DrawingTwiceRestores : Prop :=
  ∀ (s t : State) (x y n : Nibble), n.val = 0 ∨ s.index.toNat + n.val ≤ 4096 → exec (.drw x y n) s = .next t →
    anchorColumn t x = anchorColumn s x → anchorRow t y = anchorRow s y →
    let cover := spriteBit (s.bytesFrom s.index.toNat n.val) (anchorColumn s x) (anchorRow s y)
    ∃ u, exec (.drw x y n) t = .next u ∧ u.fb = s.fb ∧
      (u.getV vf = 1 ↔ ∃ r c, r < 32 ∧ c < 64 ∧ cover c r = true ∧ s.fb.pixel r c = false)

/-- Clipping law: a sprite anchored at the last column and row can change only pixel (63, 31), by bit 7 of its first byte
(44 R805, which the spec marks as derived). -/
def Obligations.CornerSpriteIsClipped : Prop :=
  ∀ (s : State) (x y n : Nibble), 0 < n.val → s.index.toNat + n.val ≤ 4096 →
    (s.getV x).toNat % 64 = 63 → (s.getV y).toNat % 32 = 31 →
    ∃ t, exec (.drw x y n) s = .next t ∧
      t.fb.pixel 31 63 = (s.fb.pixel 31 63 != (s.byteAt s.index.toNat).getLsbD 7) ∧
      ∀ r c, r < 32 → c < 64 → (r ≠ 31 ∨ c ≠ 63) → t.fb.pixel r c = s.fb.pixel r c

/-! Timers and keypad (45_timer_keypad.md). -/

/-- FX07, FX15 and FX18 move a timer to a register or a register to a timer and change nothing else; `tone` is on
after FX18 exactly when the value is not 0 (45 R903-R905; that `tone` is the level ST > 0 is the spec's decision D27, 60
R1033, log entry 24). The first lines are their encodings. -/
def Obligations.TimerMoves : Prop :=
  ∀ (s : State) (x : Nibble),
    decodeWord (wordXK 0b1111#4 x 0b00000111#8) = some (.ldVxDt x) ∧
    decodeWord (wordXK 0b1111#4 x 0b00010101#8) = some (.ldDtVx x) ∧
    decodeWord (wordXK 0b1111#4 x 0b00011000#8) = some (.ldStVx x) ∧
    (∃ t, exec (.ldVxDt x) s = .next t ∧ t.getV x = s.dt ∧ Unchanged (Writes.onlyRegs [x]) s t) ∧
    (∃ t, exec (.ldDtVx x) s = .next t ∧ t.dt = s.getV x ∧ Unchanged { dt := true } s t) ∧
    (∃ t, exec (.ldStVx x) s = .next t ∧ t.st = s.getV x ∧ (t.tone = true ↔ s.getV x ≠ 0) ∧
      Unchanged { st := true } s t)

/-- SKP skips when the key Vx is down, SKNP when it is up, and nothing else changes (K is the input of log entry 2); with a
key index above 15 both take KeyIndexOutOfRange with the address of the instruction and the value (45 R901, R902; the
fault is the spec's decision D18, log entry 19). -/
def Obligations.KeySkipsFollowTheKey : Prop :=
  ∀ (s : State) (x : Nibble),
    (∀ k : Nibble, (s.getV x).toNat = k.val →
      (∃ t, exec (.skp x) s = .next t ∧ Unchanged Writes.onlyPc s t ∧
        t.pc.toNat = if s.keys[k] = true then (s.pc.toNat + 2) % 65536 else s.pc.toNat) ∧
      (∃ t, exec (.sknp x) s = .next t ∧ Unchanged Writes.onlyPc s t ∧
        t.pc.toNat = if s.keys[k] = true then s.pc.toNat else (s.pc.toNat + 2) % 65536)) ∧
    (15 < (s.getV x).toNat →
      (∃ t, exec (.skp x) s = .next t ∧ t.status = .faulted (.keyIndexOutOfRange (s.pc - 2) (s.getV x)) ∧
        Unchanged Writes.onlyStatus s t) ∧
      (∃ t, exec (.sknp x) s = .next t ∧ t.status = .faulted (.keyIndexOutOfRange (s.pc - 2) (s.getV x)) ∧
        Unchanged Writes.onlyStatus s t))

/-- FX0A before a press: with no key down it waits at the same address; with keys down it writes Vx with the index of one
of them, and then waits for that key's release (quirk-E) or completes (45 R906, R907; which key is a free value by D19,
log entry 4, and a held key counts by D20, log entry 20). -/
def Obligations.KeyWaitRecordsAPress : Prop :=
  ∀ (s : State) (x : Nibble), s.latch = .idle ∨ s.latch = .waitingForPress →
    ((∀ k : Nibble, s.keys[k] = false) →
      ∃ t, exec (.ldVxK x) s = .next t ∧ t.latch = .waitingForPress ∧ t.pc = s.pc - 2 ∧
        Unchanged { latch := true, pc := true } s t) ∧
    ((∃ k : Nibble, s.keys[k] = true) →
      ∃ (k : Nibble) (t : State), s.keys[k] = true ∧ exec (.ldVxK x) s = .next t ∧ (t.getV x).toNat = k.val ∧
        (s.config.quirkE = true → t.latch = .waitingForRelease k ∧ t.pc = s.pc - 2) ∧
        (s.config.quirkE = false → t.latch = .idle ∧ t.pc = s.pc) ∧
        Unchanged { regs := [x], latch := true, pc := true, draws := true } s t)

/-- FX0A after a press: it waits while the recorded key is down, whatever the others show, and completes when it is up;
no register changes (45 R906, R907). -/
def Obligations.KeyWaitCompletesOnRelease : Prop :=
  ∀ (s : State) (x k : Nibble), s.latch = .waitingForRelease k →
    (s.keys[k] = true →
      ∃ t, exec (.ldVxK x) s = .next t ∧ t.pc = s.pc - 2 ∧ Unchanged { pc := true } s t) ∧
    (s.keys[k] = false →
      ∃ t, exec (.ldVxK x) s = .next t ∧ t.latch = .idle ∧ Unchanged { latch := true } s t)

/-- A waiting FX0A holds: however many steps run in a tick with no key down, only the latch changes, to WaitingForPress,
and the next step is the same FX0A (40 R412, 45 R906). -/
def Obligations.KeyWaitHoldsForAnyNumberOfSteps : Prop :=
  ∀ (n : Nat) (s : State) (x : Nibble), s.status = .running → s.nextInstr = some (.ldVxK x) →
    (s.latch = .idle ∨ s.latch = .waitingForPress) → (∀ k : Nibble, s.keys[k] = false) →
    runSteps (n + 1) s = s.setLatch .waitingForPress ∧ (runSteps (n + 1) s).nextInstr = some (.ldVxK x)

/-! Frames: what no instruction of a family changes beyond the pieces `Instr.writes` names for it. -/

/-- The control-flow instructions change only `pc`, and CALL and RET the stack or, on a fault, the status (41 R500). -/
def Obligations.ControlFlowFrame : Prop :=
  ∀ (i : Instr) (s t : State), i.family = .controlFlow → exec i s = .next t → Unchanged (i.writes s) s t

/-- The register and arithmetic instructions change only Vx and, where they write a flag, VF (42 R600, 10 R104). -/
def Obligations.AluFrame : Prop :=
  ∀ (i : Instr) (s t : State), i.family = .alu → exec i s = .next t → Unchanged (i.writes s) s t

/-- The index and memory instructions change only I, the bytes at `blockAddr s` upward that they store to, the registers
loaded, VF under quirk-C, the diagnostics (FX29) or, on a fault, the status (43 R700, 10 R104). -/
def Obligations.IndexMemoryFrame : Prop :=
  ∀ (i : Instr) (s t : State), i.family = .indexMemory → exec i s = .next t → Unchanged (i.writes s) s t

/-- CLS and DXYN change only the framebuffer and, DXYN, VF or, on a fault, the status (44 R800); the timer and keypad
instructions only their register, timer, latch or `pc` or, on a fault, the status (45 R900). -/
def Obligations.DisplayTimerKeypadFrame : Prop :=
  ∀ (i : Instr) (s t : State), i.family = .display ∨ i.family = .timerKeypad → exec i s = .next t →
    Unchanged (i.writes s) s t

/-! Whole-machine rules: what only certain instructions can do, over every step. -/

/-- VF is written as a flag by no instruction but those of 10 R104: any other instruction leaves it unless VF is its
destination. -/
def Obligations.OnlyFlagWritersTouchVf : Prop :=
  ∀ (i : Instr) (s t : State), exec i s = .next t → vf ∉ i.destinations → t.getV vf ≠ s.getV vf →
    (∃ x y, i = .addReg x y ∨ i = .subReg x y ∨ i = .subnReg x y ∨ i = .shr x y ∨ i = .shl x y) ∨
    (∃ x y n, i = .drw x y n) ∨ (∃ x, i = .addI x ∧ s.config.quirkC = true ∧ t.getV vf = 1)

/-- A step changes I only by ANNN, FX1E, FX29 or, under quirk-D, FX55 or FX65; a byte of memory only by FX33 or FX55; a
pixel only by 00E0 or DXYN; the stack only by 2NNN or 00EE; the latch only by FX0A; the configuration never (10 R101,
R106, R110, R113; 43 R700; 44 R800). -/
def Obligations.OnlyTheirWritersChangeThem : Prop :=
  ∀ s t : State, step s = .next t →
    (t.index ≠ s.index →
      (∃ nnn, s.nextInstr = some (.ldI nnn)) ∨
      (∃ x, s.nextInstr = some (.addI x) ∨ s.nextInstr = some (.ldF x)) ∨
      (s.config.quirkD = true ∧ ∃ x, s.nextInstr = some (.storeRegs x) ∨ s.nextInstr = some (.loadRegs x))) ∧
    ((∃ a, t.byteAt a ≠ s.byteAt a) →
      ∃ x, s.nextInstr = some (.ldB x) ∨ s.nextInstr = some (.storeRegs x)) ∧
    (t.fb ≠ s.fb → s.nextInstr = some .cls ∨ ∃ x y n, s.nextInstr = some (.drw x y n)) ∧
    (t.stack ≠ s.stack → s.nextInstr = some .ret ∨ ∃ nnn, s.nextInstr = some (.call nnn)) ∧
    (t.latch ≠ s.latch → ∃ x, s.nextInstr = some (.ldVxK x)) ∧
    t.config = s.config

/-- No step changes DT except by FX15 or ST except by FX18, so no step counts a timer down (40 R410). -/
def Obligations.StepsNeverTickTheTimers : Prop :=
  ∀ s t : State, step s = .next t →
    (t.dt ≠ s.dt → ∃ x, s.nextInstr = some (.ldDtVx x) ∧ t.dt = s.getV x) ∧
    (t.st ≠ s.st → ∃ x, s.nextInstr = some (.ldStVx x) ∧ t.st = s.getV x)

/-- A step only appends to the diagnostic log, at most one record, and never both records one and takes a fatal fault
(60 R1003, R1010; log entry 22). -/
def Obligations.DiagnosticsAppendOnlyAndExcludeFaults : Prop :=
  ∀ s t : State, step s = .next t →
    t.diags = s.diags ∨ ((∃ d, t.diags = s.diags ++ [d]) ∧ t.status = .running)

/-- The keypad is used only by EX9E, EXA1 and FX0A: any other instruction does the same whatever the keypad shows
(40 R411). -/
def Obligations.KeypadIsUsedOnlyByItsInstructions : Prop :=
  ∀ (i : Instr) (s t : State) (k : Keypad), (∀ x, i ≠ .skp x ∧ i ≠ .sknp x ∧ i ≠ .ldVxK x) →
    exec i s = .next t → exec i (s.poll k) = .next (t.poll k)

/-- The free values are used only by CXNN and, for its choice of key, FX0A: any other instruction does the same whatever
they are (40 R411; log entries 3, 4). -/
def Obligations.RandomnessIsUsedOnlyByItsInstructions : Prop :=
  ∀ (i : Instr) (s t : State) (d : Nat), (∀ x nn, i ≠ .rnd x nn) → (∀ x, i ≠ .ldVxK x) →
    exec i s = .next t → exec i { s with draws := d } = .next { t with draws := d }

/-- A step from a parked state changes nothing (60 R1044, by the spec's decision D29; 41 R502). -/
def Obligations.ParkedStateStays : Prop :=
  ∀ s : State, Parked s → step s = .next s

/-! Host operations (60_exceptions.md, 70_reset_and_hazards.md). -/

/-- After n ticks each timer is n lower, never below zero, and nothing else has changed (60 R1030). -/
def Obligations.TicksCountDownToZero : Prop :=
  ∀ (n : Nat) (s : State),
    let t := State.tick^[n] s
    t.dt.toNat = s.dt.toNat - n ∧ t.st.toNat = s.st.toNat - n ∧ Unchanged { dt := true, st := true } s t

/-- A load with a font of 80 bytes and a ROM that fits constructs the core: font at 0x050, ROM at 0x200, every other byte
0, registers 0, `pc` 0x200, stack and log empty, Running (70 R1100; the register values are the spec's decision D8, log
entry 7). -/
def Obligations.LoadConstructsTheCore : Prop :=
  ∀ (s : State) (font rom : List Byte), font.length = 80 → rom.length ≤ 3584 →
    ∃ t, s.load font rom = .ok t ∧
      (∀ a, a < 4096 → t.byteAt a =
        if 0x050 ≤ a ∧ a < 0x0A0 then font.getD (a - 0x050) 0
        else if 0x200 ≤ a ∧ a < 0x200 + rom.length then rom.getD (a - 0x200) 0
        else 0) ∧
      t.mem.wf = true ∧ (∀ k, t.getV k = 0) ∧ t.index = 0 ∧ t.pc = 0x200 ∧ t.dt = 0 ∧ t.st = 0 ∧ t.latch = .idle ∧
      (∀ y x, t.fb.pixel y x = false) ∧ t.stack = [] ∧ t.status = .running ∧ t.diags = [] ∧ t.config = s.config

/-- A ROM over 3584 bytes, or a font that is not 80 bytes, is refused with the rejected length and nothing is constructed
(70 R1101, by the spec's decision D30; the ROM is checked first by log entry 11). -/
def Obligations.LoadRefusesWrongSizes : Prop :=
  ∀ (s : State) (font rom : List Byte),
    (3584 < rom.length →
      s.load font rom = .error (.capacityExceeded rom.length) ∧ (HostOp.load font rom).apply s = s) ∧
    (rom.length ≤ 3584 → font.length ≠ 80 →
      s.load font rom = .error (.capacityExceeded font.length) ∧ (HostOp.load font rom).apply s = s)

/-- What reset leaves (10 R130 and 20 R201; the values of V, I, the timers, the latch and the framebuffer are the spec's
decision D8, log entry 7; the font is log entry 6): `pc` 0x200, registers 0, the font at 0x050, 0 everywhere else. -/
def Obligations.ResetStateValues : Prop :=
  State.reset.pc = 0x200 ∧ (∀ k, State.reset.getV k = 0) ∧ State.reset.index = 0 ∧ State.reset.dt = 0 ∧
  State.reset.st = 0 ∧ State.reset.latch = .idle ∧ State.reset.stack = [] ∧ State.reset.status = .running ∧
  State.reset.diags = [] ∧ (∀ y x, State.reset.fb.pixel y x = false) ∧
  (∀ a, (a < 0x050 ∨ 0x0A0 ≤ a) → State.reset.byteAt a = 0) ∧
  (∀ d r, d < 16 → r < 5 → State.reset.byteAt (0x050 + (5 * d + r)) = defaultFont.getD (5 * d + r) 0)

/-- `reset()` reinitialises registers, framebuffer and status and keeps memory, stack, diagnostics and configuration
(70 R1102; that V, I, DT, ST become 0, the latch Idle and every pixel unlit is the spec's decision D8, 10 R130, log entry
7; that the stack, the log and the configuration stay is its decision D22, log entry 21). -/
def Obligations.HostResetKeepsMemoryAndStack : Prop :=
  ∀ s : State,
    (∀ k, s.hostReset.getV k = 0) ∧ s.hostReset.index = 0 ∧ s.hostReset.pc = 0x200 ∧ s.hostReset.dt = 0 ∧
    s.hostReset.st = 0 ∧ s.hostReset.latch = .idle ∧ (∀ y x, s.hostReset.fb.pixel y x = false) ∧
    s.hostReset.status = .running ∧ (∀ a, s.hostReset.byteAt a = s.byteAt a) ∧ s.hostReset.stack = s.stack ∧
    s.hostReset.diags = s.diags ∧ s.hostReset.config = s.config

/-! The invariant. -/

/-- EVERY STEP KEEPS THE INVARIANT: canonical memory, `pc` in 0..0x10FE, return addresses at most 0x1000, the stack within
STACK_LIMIT, a legal configuration, and a latch that is Idle except while an FX0A is the next instruction (10 R109, R110,
R111, R113, R116; 45 R907). -/
def Obligations.StepKeepsInvariant : Prop :=
  ∀ s t : State, Inv s → step s = .next t → Inv t

/-- The reset state meets the invariant. -/
def Obligations.ResetMeetsInvariant : Prop := Inv State.reset

/-- Every host schedule keeps the invariant: loads, polls, steps, ticks and resets in any order (60 R1035). -/
def Obligations.EveryScheduleKeepsInvariant : Prop :=
  ∀ (ops : List HostOp) (s : State), Inv s → Inv (runOps ops s)
end

