-- ==== Sys2Proof/Laws/Decode.lean ====
section
/-!
SUPPORT. The fields of an encoded word (30 R301, R302): each is the operand it was built from.
-/

namespace Sys2Proof

theorem toNat_wordA (op : BitVec 4) (nnn : Addr12) : (wordA op nnn).toNat = op.toNat * 4096 + nnn.toNat := by
  have h := nnn.isLt
  unfold wordA
  rw [BitVec.toNat_append, ← Nat.shiftLeft_add_eq_or_of_lt h, Nat.shiftLeft_eq]

theorem toNat_wordXK (op : BitVec 4) (x : Nibble) (nn : Byte) :
    (wordXK op x nn).toNat = op.toNat * 4096 + (x.val * 256 + nn.toNat) := by
  have h := nn.isLt
  have h2 : (nibbleBits x ++ nn).toNat < 2 ^ 12 := (nibbleBits x ++ nn).isLt
  unfold wordXK
  rw [BitVec.toNat_append, ← Nat.shiftLeft_add_eq_or_of_lt h2, Nat.shiftLeft_eq, BitVec.toNat_append,
    ← Nat.shiftLeft_add_eq_or_of_lt h, Nat.shiftLeft_eq]
  rfl

theorem toNat_wordXYN (op : BitVec 4) (x y : Nibble) (n : BitVec 4) :
    (wordXYN op x y n).toNat = op.toNat * 4096 + (x.val * 256 + (y.val * 16 + n.toNat)) := by
  have h := n.isLt
  have h1 : (nibbleBits y ++ n).toNat < 2 ^ 8 := (nibbleBits y ++ n).isLt
  have h2 : (nibbleBits x ++ (nibbleBits y ++ n)).toNat < 2 ^ 12 := (nibbleBits x ++ (nibbleBits y ++ n)).isLt
  unfold wordXYN
  rw [BitVec.toNat_append, ← Nat.shiftLeft_add_eq_or_of_lt h2, Nat.shiftLeft_eq, BitVec.toNat_append,
    ← Nat.shiftLeft_add_eq_or_of_lt h1, Nat.shiftLeft_eq, BitVec.toNat_append, ← Nat.shiftLeft_add_eq_or_of_lt h,
    Nat.shiftLeft_eq]
  rfl

/-! The fields as numbers. -/

theorem val_fieldOp (w : Word) : (fieldOp w).val = w.toNat / 4096 := by
  have h := w.isLt
  simp only [fieldOp, nibbleAt, BitVec.val_toFin, BitVec.extractLsb'_toNat, Nat.shiftRight_eq_div_pow]
  omega

theorem val_fieldX (w : Word) : (fieldX w).val = w.toNat / 256 % 16 := by
  simp only [fieldX, nibbleAt, BitVec.val_toFin, BitVec.extractLsb'_toNat, Nat.shiftRight_eq_div_pow]

theorem val_fieldY (w : Word) : (fieldY w).val = w.toNat / 16 % 16 := by
  simp only [fieldY, nibbleAt, BitVec.val_toFin, BitVec.extractLsb'_toNat, Nat.shiftRight_eq_div_pow]

theorem val_fieldN (w : Word) : (fieldN w).val = w.toNat % 16 := by
  simp only [fieldN, nibbleAt, BitVec.val_toFin, BitVec.extractLsb'_toNat, Nat.shiftRight_eq_div_pow, Nat.pow_zero,
    Nat.div_one]

theorem toNat_fieldNN (w : Word) : (fieldNN w).toNat = w.toNat % 256 := by
  simp only [fieldNN, BitVec.extractLsb'_toNat, Nat.shiftRight_eq_div_pow, Nat.pow_zero, Nat.div_one]

theorem toNat_fieldNNN (w : Word) : (fieldNNN w).toNat = w.toNat % 4096 := by
  simp only [fieldNNN, BitVec.extractLsb'_toNat, Nat.shiftRight_eq_div_pow, Nat.pow_zero, Nat.div_one]

/-! The fields of an encoded word, by format. -/

theorem fields_wordA (op : BitVec 4) (nnn : Addr12) :
    (fieldOp (wordA op nnn)).val = op.toNat ∧ fieldNNN (wordA op nnn) = nnn := by
  have h1 := nnn.isLt
  have h2 := op.isLt
  refine ⟨?_, BitVec.eq_of_toNat_eq ?_⟩
  · rw [val_fieldOp, toNat_wordA]; omega
  · rw [toNat_fieldNNN, toNat_wordA]; omega

theorem fields_wordXK (op : BitVec 4) (x : Nibble) (nn : Byte) :
    (fieldOp (wordXK op x nn)).val = op.toNat ∧ fieldX (wordXK op x nn) = x ∧ fieldNN (wordXK op x nn) = nn := by
  have h1 := nn.isLt
  have h2 := op.isLt
  have h3 := x.isLt
  refine ⟨?_, Fin.ext ?_, BitVec.eq_of_toNat_eq ?_⟩
  · rw [val_fieldOp, toNat_wordXK]; omega
  · rw [val_fieldX, toNat_wordXK]; omega
  · rw [toNat_fieldNN, toNat_wordXK]; omega

theorem fields_wordXYN (op : BitVec 4) (x y : Nibble) (n : BitVec 4) :
    (fieldOp (wordXYN op x y n)).val = op.toNat ∧ fieldX (wordXYN op x y n) = x ∧ fieldY (wordXYN op x y n) = y ∧
      fieldN (wordXYN op x y n) = n.toFin := by
  have h1 := n.isLt
  have h2 := op.isLt
  have h3 := x.isLt
  have h4 := y.isLt
  refine ⟨?_, Fin.ext ?_, Fin.ext ?_, Fin.ext ?_⟩
  · rw [val_fieldOp, toNat_wordXYN]; omega
  · rw [val_fieldX, toNat_wordXYN]; omega
  · rw [val_fieldY, toNat_wordXYN]; omega
  · show (fieldN _).val = n.toNat
    rw [val_fieldN, toNat_wordXYN]; omega

/-! A word rebuilt from its fields, by format. -/

theorem wordA_fields {w : Word} {op : BitVec 4} (h : (fieldOp w).val = op.toNat) : wordA op (fieldNNN w) = w := by
  have hw := w.isLt
  apply BitVec.eq_of_toNat_eq
  rw [toNat_wordA, toNat_fieldNNN, ← h, val_fieldOp]; omega

theorem wordXK_fields {w : Word} {op : BitVec 4} (h : (fieldOp w).val = op.toNat) :
    wordXK op (fieldX w) (fieldNN w) = w := by
  have hw := w.isLt
  apply BitVec.eq_of_toNat_eq
  rw [toNat_wordXK, val_fieldX, toNat_fieldNN, ← h, val_fieldOp]; omega

theorem wordXYN_fields {w : Word} {op n : BitVec 4} (h : (fieldOp w).val = op.toNat) (hn : (fieldN w).val = n.toNat) :
    wordXYN op (fieldX w) (fieldY w) n = w := by
  have hw := w.isLt
  apply BitVec.eq_of_toNat_eq
  rw [toNat_wordXYN, val_fieldX, val_fieldY, ← hn, val_fieldN, ← h, val_fieldOp]; omega

/-! A word as the two bytes memory holds (20 R203, R207). -/

theorem wordOfBytes_split (w : Word) : wordOfBytes (highByte w) (lowByte w) = w := by
  apply BitVec.eq_of_toNat_eq
  have h := w.isLt
  have h1 := (lowByte w).isLt
  unfold wordOfBytes
  rw [BitVec.toNat_append, ← Nat.shiftLeft_add_eq_or_of_lt h1, Nat.shiftLeft_eq]
  simp only [highByte, lowByte, BitVec.extractLsb'_toNat, Nat.shiftRight_eq_div_pow]
  omega

/-- The decoder on the two bytes of a word (30 R300). -/
theorem decode_bytes (w : Word) (rest : List Byte) :
    decode (highByte w :: lowByte w :: rest) = (decodeWord w).map (·, rest) := by
  simp only [decode, wordOfBytes_split]

/-- The table's numbering of a word's bits is the word itself. -/
theorem decodeTableWord_eq (nbits w : Nat) : decodeTableWord nbits w = decodeWord (tableWord nbits w) := by
  simp only [decodeTableWord, decode_bytes, Option.map_map]
  cases decodeWord (tableWord nbits w) <;> rfl

end Sys2Proof
end

