-- ==== Sys2Proof/Laws/Display.lean ====
section
/-!
SUPPORT. What drawing does to each pixel and to the collision flag (44 R802, R803), said once: the loops of the draw
engine against the coverage function `spriteBit`.
-/

namespace Sys2Proof.Machine

/-- The position is on the screen (10 R114). -/
abbrev OnScreen (y x : Nat) : Prop := y < Config.fbHeight ∧ x < Config.fbWidth

theorem Framebuffer.pixel_off {f : Framebuffer} {y x : Nat} (h : ¬ OnScreen y x) : f.pixel y x = false := by
  unfold Framebuffer.pixel
  split
  · split
    · exact absurd ⟨‹_›, ‹_›⟩ h
    · rfl
  · rfl

theorem Framebuffer.pixel_blank (y x : Nat) : Framebuffer.blank.pixel y x = false := by
  unfold Framebuffer.pixel Framebuffer.blank
  split <;> (try split) <;> simp

theorem Framebuffer.pixel_setPixel {f : Framebuffer} {y x : Nat} (h : OnScreen y x) (b : Bool) (y' x' : Nat) :
    (f.setPixel y x b).pixel y' x' = if y' = y ∧ x' = x then b else f.pixel y' x' := by
  obtain ⟨hy, hx⟩ := h
  by_cases h' : OnScreen y' x'
  · obtain ⟨hy', hx'⟩ := h'
    simp only [Framebuffer.setPixel, Framebuffer.pixel, hy, hx, hy', hx', dif_pos, Vector.getElem_set]
    by_cases ey : y = y'
    · subst ey
      by_cases ex : x = x'
      · subst ex; simp
      · have : ¬ x' = x := fun e => ex e.symm
        simp [ex, this]
    · have : ¬ y' = y := fun e => ey e.symm
      simp [ey, this]
  · rw [Framebuffer.pixel_off h', Framebuffer.pixel_off h', if_neg]
    rintro ⟨rfl, rfl⟩; exact h' ⟨hy, hx⟩

/-- Two framebuffers with the same pixels are the same. -/
theorem Framebuffer.ext_pixel {f g : Framebuffer} (h : ∀ y x, OnScreen y x → f.pixel y x = g.pixel y x) : f = g := by
  apply Vector.ext
  intro y hy
  apply Vector.ext
  intro x hx
  have := h y x ⟨hy, hx⟩
  simpa [Framebuffer.pixel, hy, hx] using this

/-- What a drawing operation did to a canvas, when `cover y x` says which positions got a 1-bit. -/
structure Drawn (cover : Nat → Nat → Bool) (c d : Canvas) : Prop where
  pixel : ∀ y x, OnScreen y x → d.1.pixel y x = (c.1.pixel y x != cover y x)
  collision : d.2 = true ↔ c.2 = true ∨ ∃ y x, OnScreen y x ∧ cover y x = true ∧ c.1.pixel y x = true

theorem Drawn.refl_of {cover : Nat → Nat → Bool} (c : Canvas) (h : ∀ y x, OnScreen y x → cover y x = false) :
    Drawn cover c c where
  pixel y x hs := by simp [h y x hs]
  collision := by
    constructor
    · exact Or.inl
    · rintro (h' | ⟨y, x, hs, hc, _⟩)
      · exact h'
      · rw [h y x hs] at hc; cases hc

/-- Drawing two disjoint sets of positions one after the other draws their union. -/
theorem Drawn.comp {cov1 cov2 cov : Nat → Nat → Bool} {c d e : Canvas} (h1 : Drawn cov1 c d) (h2 : Drawn cov2 d e)
    (disj : ∀ y x, OnScreen y x → cov2 y x = true → cov1 y x = false)
    (union : ∀ y x, OnScreen y x → cov y x = (cov1 y x || cov2 y x)) : Drawn cov c e where
  pixel y x hs := by
    rw [h2.pixel y x hs, h1.pixel y x hs, union y x hs]
    have := disj y x hs
    cases h : cov2 y x <;> simp_all
  collision := by
    rw [h2.collision, h1.collision]
    constructor
    · rintro ((h | ⟨y, x, hs, hc, hp⟩) | ⟨y, x, hs, hc, hp⟩)
      · exact .inl h
      · exact .inr ⟨y, x, hs, by simp [union y x hs, hc], hp⟩
      · rw [h1.pixel y x hs, disj y x hs hc] at hp
        exact .inr ⟨y, x, hs, by simp [union y x hs, hc], by simpa using hp⟩
    · rintro (h | ⟨y, x, hs, hc, hp⟩)
      · exact .inl (.inl h)
      · cases hc1 : cov1 y x
        · refine .inr ⟨y, x, hs, ?_, ?_⟩
          · simpa [union y x hs, hc1] using hc
          · rw [h1.pixel y x hs, hc1, hp]; rfl
        · exact .inl (.inr ⟨y, x, hs, hc1, hp⟩)

theorem Canvas.flip_drawn {c : Canvas} {y0 x0 : Nat} (h : OnScreen y0 x0) :
    Drawn (fun y x => decide (y = y0 ∧ x = x0)) c (c.flip y0 x0) where
  pixel y x _ := by
    simp only [Canvas.flip, Framebuffer.pixel_setPixel h]
    split
    · rename_i e; obtain ⟨rfl, rfl⟩ := e; simp
    · rename_i e; simp [e]
  collision := by
    simp only [Canvas.flip, Bool.or_eq_true]
    constructor
    · rintro (h' | h')
      · exact .inl h'
      · exact .inr ⟨y0, x0, h, by simp, h'⟩
    · rintro (h' | ⟨y, x, _, hc, hp⟩)
      · exact .inl h'
      · obtain ⟨rfl, rfl⟩ := of_decide_eq_true hc
        exact .inr hp

/-- The bits of one row from offset `b` on. -/
def rowCover (row : Byte) (y0 x0 b : Nat) (y x : Nat) : Bool :=
  decide (y = y0) && decide (x0 + b ≤ x) && decide (x < x0 + 8) && row.getLsbD (7 - (x - x0))

theorem Canvas.drawBits_drawn (row : Byte) (y0 x0 : Nat) (hy : y0 < Config.fbHeight) : ∀ (n b : Nat) (c : Canvas),
    b + n = 8 → Drawn (rowCover row y0 x0 b) c (Canvas.drawBits row y0 x0 (List.range' b n) c) := by
  intro n
  induction n with
  | zero =>
    intro b c hb
    refine Drawn.refl_of c fun y x _ => ?_
    simp only [rowCover]
    by_cases h : x0 + b ≤ x
    · have : ¬ x < x0 + 8 := by omega
      simp [this]
    · simp [h]
  | succ n ih =>
    intro b c hb
    rw [List.range'_succ]
    simp only [Canvas.drawBits]
    split
    · rename_i hw
      refine Drawn.refl_of c fun y x hs => ?_
      have : ¬ x0 + b ≤ x := by have := hs.2; omega
      simp [rowCover, this]
    · rename_i hw
      have hs0 : OnScreen y0 (x0 + b) := ⟨hy, Nat.lt_of_not_le hw⟩
      split
      · rename_i hbit
        refine Drawn.comp (Canvas.flip_drawn hs0) (ih (b + 1) _ (by omega)) ?_ ?_
        · intro y x _ hc
          simp only [rowCover, Bool.and_eq_true, decide_eq_true_eq] at hc
          have : ¬ x = x0 + b := by omega
          simp [this]
        · intro y x _
          by_cases hx : x = x0 + b
          · subst hx
            have : 7 - (x0 + b - x0) = 7 - b := by omega
            have : x0 + b < x0 + 8 := by omega
            by_cases hyy : y = y0 <;> simp_all [rowCover]
          · have e : (x0 + b ≤ x) ↔ (x0 + (b + 1) ≤ x) := by omega
            simp [rowCover, hx, e]
      · rename_i hbit
        refine Drawn.comp (Drawn.refl_of (cover := fun _ _ => false) c fun _ _ _ => rfl) (ih (b + 1) _ (by omega))
          (fun _ _ _ _ => rfl) ?_
        intro y x _
        by_cases hx : x = x0 + b
        · subst hx
          simp [rowCover, hbit]
        · have e : (x0 + b ≤ x) ↔ (x0 + (b + 1) ≤ x) := by omega
          simp [rowCover, e]

theorem Canvas.drawRow_drawn (row : Byte) (y0 x0 : Nat) (hy : y0 < Config.fbHeight) (c : Canvas) :
    Drawn (rowCover row y0 x0 0) c (Canvas.drawRow row y0 x0 c) := by
  have := Canvas.drawBits_drawn row y0 x0 hy 8 0 c rfl
  rwa [← List.range_eq_range'] at this

/-- THE DRAW ENGINE: the rows flip exactly the on-screen pixels their 1-bits cover, and the collision flag says whether
one of those was lit. -/
theorem Canvas.drawRows_drawn (x0 : Nat) (rows : List Byte) : ∀ (y0 : Nat) (c : Canvas),
    Drawn (fun y x => spriteBit rows x0 y0 x y) c (Canvas.drawRows x0 rows y0 c) := by
  induction rows with
  | nil => intro y0 c; exact Drawn.refl_of c fun y x _ => by simp [spriteBit]
  | cons row rows ih =>
    intro y0 c
    simp only [Canvas.drawRows]
    split
    · rename_i hy
      refine Drawn.refl_of c fun y x hs => ?_
      have : ¬ y0 ≤ y := by have := hs.1; omega
      simp [spriteBit, this]
    · rename_i hy
      refine Drawn.comp (Canvas.drawRow_drawn row y0 x0 (Nat.lt_of_not_le hy) c) (ih (y0 + 1) _) ?_ ?_
      · intro y x _ hc
        simp only [spriteBit, Bool.and_eq_true, decide_eq_true_eq] at hc
        have : ¬ y = y0 := by omega
        simp [rowCover, this]
      · intro y x _
        by_cases hyy : y = y0
        · subst hyy; simp [rowCover, spriteBit]
        · by_cases hle : y0 ≤ y
          · have e : y - y0 = (y - (y0 + 1)) + 1 := by omega
            have h1 : y0 + 1 ≤ y := by omega
            simp [rowCover, spriteBit, hyy, hle, h1, e]
          · have h1 : ¬ y0 + 1 ≤ y := by omega
            simp [rowCover, spriteBit, hyy, hle, h1]

end Sys2Proof.Machine
end

