-- ==== Sys2Proof/Laws/Memory.lean ====
section
/-!
SUPPORT. The laws of memory: what a read after a write gives, that every operation keeps the canonical form, and that a
memory in canonical form is determined by what it reads as.
-/

namespace Sys2Proof.Machine

theorem Memory.read_unlist (m : Memory) (a i : Nat) :
    (m.unlist a).read i = if i = a then initialByte i else m.read i := by
  induction m with
  | nil => simp [Memory.unlist, Memory.read]
  | cons c m ih =>
    obtain ⟨k, b⟩ := c
    simp only [Memory.unlist, Memory.read]
    split
    · rw [ih]; split <;> simp_all
    · simp only [Memory.read, ih]; split <;> simp_all

theorem Memory.length_unlist_le (m : Memory) (a : Nat) : (m.unlist a).length ≤ m.length := by
  induction m with
  | nil => exact Nat.le_refl 0
  | cons c m ih => simp only [Memory.unlist]; split <;> simp only [List.length_cons] <;> omega

/-- A memory without an entry for an address has none at its head and none in its tail. -/
theorem Memory.unlist_cons_eq {k a : Nat} {b : Byte} {m : Memory}
    (h : Memory.unlist ((k, b) :: m) a = (k, b) :: m) : k ≠ a ∧ m.unlist a = m := by
  simp only [Memory.unlist] at h
  split at h
  · have hl := congrArg List.length h
    have := m.length_unlist_le a
    simp only [List.length_cons] at hl
    omega
  · exact ⟨‹_›, (List.cons.inj h).2⟩

theorem Memory.read_list (m : Memory) (a : Nat) (v : Byte) (i : Nat) (h : m.unlist a = m) :
    (m.list a v).read i = if i = a then v else m.read i := by
  induction m with
  | nil => simp [Memory.list, Memory.read]
  | cons c m ih =>
    obtain ⟨hk, hm⟩ := Memory.unlist_cons_eq h
    simp only [Memory.list]
    split
    · simp [Memory.read]
    · simp only [Memory.read, ih hm]
      split <;> simp_all

theorem Memory.unlist_unlist (m : Memory) (a : Nat) : (m.unlist a).unlist a = m.unlist a := by
  induction m with
  | nil => rfl
  | cons c m ih =>
    simp only [Memory.unlist]
    split
    · exact ih
    · simp_all [Memory.unlist]

/-- A read after a write: the byte written at its address, every other address as before (20 R204, R212). -/
theorem Memory.read_write (m : Memory) (a : Nat) (v : Byte) (i : Nat) :
    (m.write a v).read i = if i = a then v else m.read i := by
  unfold Memory.write
  split
  · rw [Memory.read_unlist]; split <;> simp_all
  · rw [Memory.read_list _ _ _ _ (Memory.unlist_unlist m a), Memory.read_unlist]
    split <;> simp_all

theorem Memory.wfFrom_mono {lo lo' : Nat} (h : lo' ≤ lo) : ∀ m : Memory, m.wfFrom lo = true → m.wfFrom lo' = true
  | [], _ => rfl
  | (k, b) :: m, w => by
    simp only [Memory.wfFrom, Bool.and_eq_true, decide_eq_true_eq] at w ⊢
    exact ⟨⟨⟨by omega, w.1.1.2⟩, w.1.2⟩, w.2⟩

theorem Memory.wfFrom_unlist {lo : Nat} (a : Nat) : ∀ m : Memory, m.wfFrom lo = true → (m.unlist a).wfFrom lo = true := by
  intro m
  induction m generalizing lo with
  | nil => exact id
  | cons c m ih =>
    intro w
    simp only [Memory.wfFrom, Bool.and_eq_true, decide_eq_true_eq] at w
    simp only [Memory.unlist]
    split
    · exact Memory.wfFrom_mono (by omega) _ (ih w.2)
    · simp only [Memory.wfFrom, Bool.and_eq_true, decide_eq_true_eq]
      exact ⟨w.1, ih w.2⟩

theorem Memory.wfFrom_list {lo a : Nat} {v : Byte} (hlo : lo ≤ a) (ha : a < Config.memSize) (hv : v ≠ initialByte a) :
    ∀ m : Memory, m.unlist a = m → m.wfFrom lo = true → (m.list a v).wfFrom lo = true := by
  intro m
  induction m generalizing lo with
  | nil => intro _ _; simp [Memory.list, Memory.wfFrom, hlo, ha, hv]
  | cons c m ih =>
    obtain ⟨k, b⟩ := c
    intro hu w
    obtain ⟨hk, hu⟩ := Memory.unlist_cons_eq hu
    simp only [Memory.wfFrom, Bool.and_eq_true, decide_eq_true_eq] at w
    simp only [Memory.list]
    split
    · simp only [Memory.wfFrom, Bool.and_eq_true, decide_eq_true_eq, bne_iff_ne]
      exact ⟨⟨⟨hlo, ha⟩, hv⟩, ⟨⟨by omega, w.1.1.2⟩, by simpa using w.1.2⟩, w.2⟩
    · simp only [Memory.wfFrom, Bool.and_eq_true, decide_eq_true_eq]
      exact ⟨w.1, ih (by omega) hu w.2⟩

/-- A write inside memory keeps the canonical form. -/
theorem Memory.wf_write {m : Memory} {a : Nat} (v : Byte) (ha : a < Config.memSize) (h : m.wf = true) :
    (m.write a v).wf = true := by
  unfold Memory.wf Memory.write
  split
  · exact Memory.wfFrom_unlist a m h
  · exact Memory.wfFrom_list (Nat.zero_le a) ha ‹_› _ (Memory.unlist_unlist m a) (Memory.wfFrom_unlist a m h)

/-- What consecutive stores read as afterwards. -/
theorem Memory.read_writeList (vs : List Byte) : ∀ (m : Memory) (a i : Nat),
    (m.writeList a vs).read i = if a ≤ i ∧ i < a + vs.length then vs.getD (i - a) 0 else m.read i := by
  induction vs with
  | nil => intro m a i; simp only [Memory.writeList, List.length_nil]; split <;> simp_all; omega
  | cons v vs ih =>
    intro m a i
    simp only [Memory.writeList, ih, Memory.read_write, List.length_cons]
    by_cases h : i = a
    · subst h; simp
    · by_cases h2 : a + 1 ≤ i ∧ i < a + 1 + vs.length
      · have : i - a = (i - (a + 1)) + 1 := by omega
        rw [if_pos h2, if_pos (by omega), this]; rfl
      · rw [if_neg h2, if_neg h, if_neg (by omega)]

theorem Memory.wf_writeList (vs : List Byte) : ∀ {m : Memory} {a : Nat},
    a + vs.length ≤ Config.memSize → m.wf = true → (m.writeList a vs).wf = true := by
  induction vs with
  | nil => intro m a _ h; exact h
  | cons v vs ih =>
    intro m a hl h
    simp only [List.length_cons] at hl
    exact ih (by omega) (Memory.wf_write v (by omega) h)

/-- In canonical form an address below the first entry reads as its construction value. -/
theorem Memory.read_below {m : Memory} {lo a : Nat} (h : m.wfFrom lo = true) (ha : a < lo) : m.read a = initialByte a := by
  induction m generalizing lo with
  | nil => rfl
  | cons c m ih =>
    obtain ⟨k, b⟩ := c
    simp only [Memory.wfFrom, Bool.and_eq_true, decide_eq_true_eq] at h
    simp only [Memory.read, if_neg (show a ≠ k by omega)]
    exact ih h.2 (by omega)

end Sys2Proof.Machine
end

