-- ==== Sys2Proof/Laws/State.lean ====
section
/-!
SUPPORT. What each update of the state does to each field, so that no later proof unfolds a record update.
-/

namespace Sys2Proof.Machine

/-! `State.setV`. -/

@[simp] theorem State.setV_v (s : State) (x : Nibble) (b : Byte) : (s.setV x b).v = s.v.set x b := rfl
@[simp] theorem State.setV_index (s : State) (x : Nibble) (b : Byte) : (s.setV x b).index = s.index := rfl
@[simp] theorem State.setV_pc (s : State) (x : Nibble) (b : Byte) : (s.setV x b).pc = s.pc := rfl
@[simp] theorem State.setV_dt (s : State) (x : Nibble) (b : Byte) : (s.setV x b).dt = s.dt := rfl
@[simp] theorem State.setV_st (s : State) (x : Nibble) (b : Byte) : (s.setV x b).st = s.st := rfl
@[simp] theorem State.setV_latch (s : State) (x : Nibble) (b : Byte) : (s.setV x b).latch = s.latch := rfl
@[simp] theorem State.setV_fb (s : State) (x : Nibble) (b : Byte) : (s.setV x b).fb = s.fb := rfl
@[simp] theorem State.setV_stack (s : State) (x : Nibble) (b : Byte) : (s.setV x b).stack = s.stack := rfl
@[simp] theorem State.setV_mem (s : State) (x : Nibble) (b : Byte) : (s.setV x b).mem = s.mem := rfl
@[simp] theorem State.setV_status (s : State) (x : Nibble) (b : Byte) : (s.setV x b).status = s.status := rfl
@[simp] theorem State.setV_diags (s : State) (x : Nibble) (b : Byte) : (s.setV x b).diags = s.diags := rfl
@[simp] theorem State.setV_config (s : State) (x : Nibble) (b : Byte) : (s.setV x b).config = s.config := rfl
@[simp] theorem State.setV_keys (s : State) (x : Nibble) (b : Byte) : (s.setV x b).keys = s.keys := rfl
@[simp] theorem State.setV_draws (s : State) (x : Nibble) (b : Byte) : (s.setV x b).draws = s.draws := rfl
@[simp] theorem State.setV_byteAt (s : State) (x : Nibble) (b : Byte) (i : Nat) : (s.setV x b).byteAt i = s.byteAt i := rfl

/-! `State.setIndex`. -/

@[simp] theorem State.setIndex_v (s : State) (w : Word) : (s.setIndex w).v = s.v := rfl
@[simp] theorem State.setIndex_index (s : State) (w : Word) : (s.setIndex w).index = w := rfl
@[simp] theorem State.setIndex_pc (s : State) (w : Word) : (s.setIndex w).pc = s.pc := rfl
@[simp] theorem State.setIndex_dt (s : State) (w : Word) : (s.setIndex w).dt = s.dt := rfl
@[simp] theorem State.setIndex_st (s : State) (w : Word) : (s.setIndex w).st = s.st := rfl
@[simp] theorem State.setIndex_latch (s : State) (w : Word) : (s.setIndex w).latch = s.latch := rfl
@[simp] theorem State.setIndex_fb (s : State) (w : Word) : (s.setIndex w).fb = s.fb := rfl
@[simp] theorem State.setIndex_stack (s : State) (w : Word) : (s.setIndex w).stack = s.stack := rfl
@[simp] theorem State.setIndex_mem (s : State) (w : Word) : (s.setIndex w).mem = s.mem := rfl
@[simp] theorem State.setIndex_status (s : State) (w : Word) : (s.setIndex w).status = s.status := rfl
@[simp] theorem State.setIndex_diags (s : State) (w : Word) : (s.setIndex w).diags = s.diags := rfl
@[simp] theorem State.setIndex_config (s : State) (w : Word) : (s.setIndex w).config = s.config := rfl
@[simp] theorem State.setIndex_keys (s : State) (w : Word) : (s.setIndex w).keys = s.keys := rfl
@[simp] theorem State.setIndex_draws (s : State) (w : Word) : (s.setIndex w).draws = s.draws := rfl
@[simp] theorem State.setIndex_getV (s : State) (w : Word) (k : Nibble) : (s.setIndex w).getV k = s.getV k := rfl
@[simp] theorem State.setIndex_byteAt (s : State) (w : Word) (i : Nat) : (s.setIndex w).byteAt i = s.byteAt i := rfl

/-! `State.setPc`. -/

@[simp] theorem State.setPc_v (s : State) (w : Word) : (s.setPc w).v = s.v := rfl
@[simp] theorem State.setPc_index (s : State) (w : Word) : (s.setPc w).index = s.index := rfl
@[simp] theorem State.setPc_pc (s : State) (w : Word) : (s.setPc w).pc = w := rfl
@[simp] theorem State.setPc_dt (s : State) (w : Word) : (s.setPc w).dt = s.dt := rfl
@[simp] theorem State.setPc_st (s : State) (w : Word) : (s.setPc w).st = s.st := rfl
@[simp] theorem State.setPc_latch (s : State) (w : Word) : (s.setPc w).latch = s.latch := rfl
@[simp] theorem State.setPc_fb (s : State) (w : Word) : (s.setPc w).fb = s.fb := rfl
@[simp] theorem State.setPc_stack (s : State) (w : Word) : (s.setPc w).stack = s.stack := rfl
@[simp] theorem State.setPc_mem (s : State) (w : Word) : (s.setPc w).mem = s.mem := rfl
@[simp] theorem State.setPc_status (s : State) (w : Word) : (s.setPc w).status = s.status := rfl
@[simp] theorem State.setPc_diags (s : State) (w : Word) : (s.setPc w).diags = s.diags := rfl
@[simp] theorem State.setPc_config (s : State) (w : Word) : (s.setPc w).config = s.config := rfl
@[simp] theorem State.setPc_keys (s : State) (w : Word) : (s.setPc w).keys = s.keys := rfl
@[simp] theorem State.setPc_draws (s : State) (w : Word) : (s.setPc w).draws = s.draws := rfl
@[simp] theorem State.setPc_getV (s : State) (w : Word) (k : Nibble) : (s.setPc w).getV k = s.getV k := rfl
@[simp] theorem State.setPc_byteAt (s : State) (w : Word) (i : Nat) : (s.setPc w).byteAt i = s.byteAt i := rfl

/-! `State.setDt`. -/

@[simp] theorem State.setDt_v (s : State) (b : Byte) : (s.setDt b).v = s.v := rfl
@[simp] theorem State.setDt_index (s : State) (b : Byte) : (s.setDt b).index = s.index := rfl
@[simp] theorem State.setDt_pc (s : State) (b : Byte) : (s.setDt b).pc = s.pc := rfl
@[simp] theorem State.setDt_dt (s : State) (b : Byte) : (s.setDt b).dt = b := rfl
@[simp] theorem State.setDt_st (s : State) (b : Byte) : (s.setDt b).st = s.st := rfl
@[simp] theorem State.setDt_latch (s : State) (b : Byte) : (s.setDt b).latch = s.latch := rfl
@[simp] theorem State.setDt_fb (s : State) (b : Byte) : (s.setDt b).fb = s.fb := rfl
@[simp] theorem State.setDt_stack (s : State) (b : Byte) : (s.setDt b).stack = s.stack := rfl
@[simp] theorem State.setDt_mem (s : State) (b : Byte) : (s.setDt b).mem = s.mem := rfl
@[simp] theorem State.setDt_status (s : State) (b : Byte) : (s.setDt b).status = s.status := rfl
@[simp] theorem State.setDt_diags (s : State) (b : Byte) : (s.setDt b).diags = s.diags := rfl
@[simp] theorem State.setDt_config (s : State) (b : Byte) : (s.setDt b).config = s.config := rfl
@[simp] theorem State.setDt_keys (s : State) (b : Byte) : (s.setDt b).keys = s.keys := rfl
@[simp] theorem State.setDt_draws (s : State) (b : Byte) : (s.setDt b).draws = s.draws := rfl
@[simp] theorem State.setDt_getV (s : State) (b : Byte) (k : Nibble) : (s.setDt b).getV k = s.getV k := rfl
@[simp] theorem State.setDt_byteAt (s : State) (b : Byte) (i : Nat) : (s.setDt b).byteAt i = s.byteAt i := rfl

/-! `State.setSt`. -/

@[simp] theorem State.setSt_v (s : State) (b : Byte) : (s.setSt b).v = s.v := rfl
@[simp] theorem State.setSt_index (s : State) (b : Byte) : (s.setSt b).index = s.index := rfl
@[simp] theorem State.setSt_pc (s : State) (b : Byte) : (s.setSt b).pc = s.pc := rfl
@[simp] theorem State.setSt_dt (s : State) (b : Byte) : (s.setSt b).dt = s.dt := rfl
@[simp] theorem State.setSt_st (s : State) (b : Byte) : (s.setSt b).st = b := rfl
@[simp] theorem State.setSt_latch (s : State) (b : Byte) : (s.setSt b).latch = s.latch := rfl
@[simp] theorem State.setSt_fb (s : State) (b : Byte) : (s.setSt b).fb = s.fb := rfl
@[simp] theorem State.setSt_stack (s : State) (b : Byte) : (s.setSt b).stack = s.stack := rfl
@[simp] theorem State.setSt_mem (s : State) (b : Byte) : (s.setSt b).mem = s.mem := rfl
@[simp] theorem State.setSt_status (s : State) (b : Byte) : (s.setSt b).status = s.status := rfl
@[simp] theorem State.setSt_diags (s : State) (b : Byte) : (s.setSt b).diags = s.diags := rfl
@[simp] theorem State.setSt_config (s : State) (b : Byte) : (s.setSt b).config = s.config := rfl
@[simp] theorem State.setSt_keys (s : State) (b : Byte) : (s.setSt b).keys = s.keys := rfl
@[simp] theorem State.setSt_draws (s : State) (b : Byte) : (s.setSt b).draws = s.draws := rfl
@[simp] theorem State.setSt_getV (s : State) (b : Byte) (k : Nibble) : (s.setSt b).getV k = s.getV k := rfl
@[simp] theorem State.setSt_byteAt (s : State) (b : Byte) (i : Nat) : (s.setSt b).byteAt i = s.byteAt i := rfl

/-! `State.setLatch`. -/

@[simp] theorem State.setLatch_v (s : State) (l : Latch) : (s.setLatch l).v = s.v := rfl
@[simp] theorem State.setLatch_index (s : State) (l : Latch) : (s.setLatch l).index = s.index := rfl
@[simp] theorem State.setLatch_pc (s : State) (l : Latch) : (s.setLatch l).pc = s.pc := rfl
@[simp] theorem State.setLatch_dt (s : State) (l : Latch) : (s.setLatch l).dt = s.dt := rfl
@[simp] theorem State.setLatch_st (s : State) (l : Latch) : (s.setLatch l).st = s.st := rfl
@[simp] theorem State.setLatch_latch (s : State) (l : Latch) : (s.setLatch l).latch = l := rfl
@[simp] theorem State.setLatch_fb (s : State) (l : Latch) : (s.setLatch l).fb = s.fb := rfl
@[simp] theorem State.setLatch_stack (s : State) (l : Latch) : (s.setLatch l).stack = s.stack := rfl
@[simp] theorem State.setLatch_mem (s : State) (l : Latch) : (s.setLatch l).mem = s.mem := rfl
@[simp] theorem State.setLatch_status (s : State) (l : Latch) : (s.setLatch l).status = s.status := rfl
@[simp] theorem State.setLatch_diags (s : State) (l : Latch) : (s.setLatch l).diags = s.diags := rfl
@[simp] theorem State.setLatch_config (s : State) (l : Latch) : (s.setLatch l).config = s.config := rfl
@[simp] theorem State.setLatch_keys (s : State) (l : Latch) : (s.setLatch l).keys = s.keys := rfl
@[simp] theorem State.setLatch_draws (s : State) (l : Latch) : (s.setLatch l).draws = s.draws := rfl
@[simp] theorem State.setLatch_getV (s : State) (l : Latch) (k : Nibble) : (s.setLatch l).getV k = s.getV k := rfl
@[simp] theorem State.setLatch_byteAt (s : State) (l : Latch) (i : Nat) : (s.setLatch l).byteAt i = s.byteAt i := rfl

/-! `State.setFb`. -/

@[simp] theorem State.setFb_v (s : State) (f : Framebuffer) : (s.setFb f).v = s.v := rfl
@[simp] theorem State.setFb_index (s : State) (f : Framebuffer) : (s.setFb f).index = s.index := rfl
@[simp] theorem State.setFb_pc (s : State) (f : Framebuffer) : (s.setFb f).pc = s.pc := rfl
@[simp] theorem State.setFb_dt (s : State) (f : Framebuffer) : (s.setFb f).dt = s.dt := rfl
@[simp] theorem State.setFb_st (s : State) (f : Framebuffer) : (s.setFb f).st = s.st := rfl
@[simp] theorem State.setFb_latch (s : State) (f : Framebuffer) : (s.setFb f).latch = s.latch := rfl
@[simp] theorem State.setFb_fb (s : State) (f : Framebuffer) : (s.setFb f).fb = f := rfl
@[simp] theorem State.setFb_stack (s : State) (f : Framebuffer) : (s.setFb f).stack = s.stack := rfl
@[simp] theorem State.setFb_mem (s : State) (f : Framebuffer) : (s.setFb f).mem = s.mem := rfl
@[simp] theorem State.setFb_status (s : State) (f : Framebuffer) : (s.setFb f).status = s.status := rfl
@[simp] theorem State.setFb_diags (s : State) (f : Framebuffer) : (s.setFb f).diags = s.diags := rfl
@[simp] theorem State.setFb_config (s : State) (f : Framebuffer) : (s.setFb f).config = s.config := rfl
@[simp] theorem State.setFb_keys (s : State) (f : Framebuffer) : (s.setFb f).keys = s.keys := rfl
@[simp] theorem State.setFb_draws (s : State) (f : Framebuffer) : (s.setFb f).draws = s.draws := rfl
@[simp] theorem State.setFb_getV (s : State) (f : Framebuffer) (k : Nibble) : (s.setFb f).getV k = s.getV k := rfl
@[simp] theorem State.setFb_byteAt (s : State) (f : Framebuffer) (i : Nat) : (s.setFb f).byteAt i = s.byteAt i := rfl

/-! `State.setStack`. -/

@[simp] theorem State.setStack_v (s : State) (k : List Word) : (s.setStack k).v = s.v := rfl
@[simp] theorem State.setStack_index (s : State) (k : List Word) : (s.setStack k).index = s.index := rfl
@[simp] theorem State.setStack_pc (s : State) (k : List Word) : (s.setStack k).pc = s.pc := rfl
@[simp] theorem State.setStack_dt (s : State) (k : List Word) : (s.setStack k).dt = s.dt := rfl
@[simp] theorem State.setStack_st (s : State) (k : List Word) : (s.setStack k).st = s.st := rfl
@[simp] theorem State.setStack_latch (s : State) (k : List Word) : (s.setStack k).latch = s.latch := rfl
@[simp] theorem State.setStack_fb (s : State) (k : List Word) : (s.setStack k).fb = s.fb := rfl
@[simp] theorem State.setStack_stack (s : State) (k : List Word) : (s.setStack k).stack = k := rfl
@[simp] theorem State.setStack_mem (s : State) (k : List Word) : (s.setStack k).mem = s.mem := rfl
@[simp] theorem State.setStack_status (s : State) (k : List Word) : (s.setStack k).status = s.status := rfl
@[simp] theorem State.setStack_diags (s : State) (k : List Word) : (s.setStack k).diags = s.diags := rfl
@[simp] theorem State.setStack_config (s : State) (k : List Word) : (s.setStack k).config = s.config := rfl
@[simp] theorem State.setStack_keys (s : State) (k : List Word) : (s.setStack k).keys = s.keys := rfl
@[simp] theorem State.setStack_draws (s : State) (k : List Word) : (s.setStack k).draws = s.draws := rfl
@[simp] theorem State.setStack_getV (s : State) (l : List Word) (k : Nibble) : (s.setStack l).getV k = s.getV k := rfl
@[simp] theorem State.setStack_byteAt (s : State) (k : List Word) (i : Nat) : (s.setStack k).byteAt i = s.byteAt i := rfl

/-! `State.setMem`. -/

@[simp] theorem State.setMem_v (s : State) (m : Memory) : (s.setMem m).v = s.v := rfl
@[simp] theorem State.setMem_index (s : State) (m : Memory) : (s.setMem m).index = s.index := rfl
@[simp] theorem State.setMem_pc (s : State) (m : Memory) : (s.setMem m).pc = s.pc := rfl
@[simp] theorem State.setMem_dt (s : State) (m : Memory) : (s.setMem m).dt = s.dt := rfl
@[simp] theorem State.setMem_st (s : State) (m : Memory) : (s.setMem m).st = s.st := rfl
@[simp] theorem State.setMem_latch (s : State) (m : Memory) : (s.setMem m).latch = s.latch := rfl
@[simp] theorem State.setMem_fb (s : State) (m : Memory) : (s.setMem m).fb = s.fb := rfl
@[simp] theorem State.setMem_stack (s : State) (m : Memory) : (s.setMem m).stack = s.stack := rfl
@[simp] theorem State.setMem_mem (s : State) (m : Memory) : (s.setMem m).mem = m := rfl
@[simp] theorem State.setMem_status (s : State) (m : Memory) : (s.setMem m).status = s.status := rfl
@[simp] theorem State.setMem_diags (s : State) (m : Memory) : (s.setMem m).diags = s.diags := rfl
@[simp] theorem State.setMem_config (s : State) (m : Memory) : (s.setMem m).config = s.config := rfl
@[simp] theorem State.setMem_keys (s : State) (m : Memory) : (s.setMem m).keys = s.keys := rfl
@[simp] theorem State.setMem_draws (s : State) (m : Memory) : (s.setMem m).draws = s.draws := rfl
@[simp] theorem State.setMem_getV (s : State) (m : Memory) (k : Nibble) : (s.setMem m).getV k = s.getV k := rfl

/-! `State.setStatus`. -/

@[simp] theorem State.setStatus_v (s : State) (t : Status) : (s.setStatus t).v = s.v := rfl
@[simp] theorem State.setStatus_index (s : State) (t : Status) : (s.setStatus t).index = s.index := rfl
@[simp] theorem State.setStatus_pc (s : State) (t : Status) : (s.setStatus t).pc = s.pc := rfl
@[simp] theorem State.setStatus_dt (s : State) (t : Status) : (s.setStatus t).dt = s.dt := rfl
@[simp] theorem State.setStatus_st (s : State) (t : Status) : (s.setStatus t).st = s.st := rfl
@[simp] theorem State.setStatus_latch (s : State) (t : Status) : (s.setStatus t).latch = s.latch := rfl
@[simp] theorem State.setStatus_fb (s : State) (t : Status) : (s.setStatus t).fb = s.fb := rfl
@[simp] theorem State.setStatus_stack (s : State) (t : Status) : (s.setStatus t).stack = s.stack := rfl
@[simp] theorem State.setStatus_mem (s : State) (t : Status) : (s.setStatus t).mem = s.mem := rfl
@[simp] theorem State.setStatus_status (s : State) (t : Status) : (s.setStatus t).status = t := rfl
@[simp] theorem State.setStatus_diags (s : State) (t : Status) : (s.setStatus t).diags = s.diags := rfl
@[simp] theorem State.setStatus_config (s : State) (t : Status) : (s.setStatus t).config = s.config := rfl
@[simp] theorem State.setStatus_keys (s : State) (t : Status) : (s.setStatus t).keys = s.keys := rfl
@[simp] theorem State.setStatus_draws (s : State) (t : Status) : (s.setStatus t).draws = s.draws := rfl
@[simp] theorem State.setStatus_getV (s : State) (t : Status) (k : Nibble) : (s.setStatus t).getV k = s.getV k := rfl
@[simp] theorem State.setStatus_byteAt (s : State) (t : Status) (i : Nat) : (s.setStatus t).byteAt i = s.byteAt i := rfl

/-! `State.useDraw`. -/

@[simp] theorem State.useDraw_v (s : State) : (s.useDraw).v = s.v := rfl
@[simp] theorem State.useDraw_index (s : State) : (s.useDraw).index = s.index := rfl
@[simp] theorem State.useDraw_pc (s : State) : (s.useDraw).pc = s.pc := rfl
@[simp] theorem State.useDraw_dt (s : State) : (s.useDraw).dt = s.dt := rfl
@[simp] theorem State.useDraw_st (s : State) : (s.useDraw).st = s.st := rfl
@[simp] theorem State.useDraw_latch (s : State) : (s.useDraw).latch = s.latch := rfl
@[simp] theorem State.useDraw_fb (s : State) : (s.useDraw).fb = s.fb := rfl
@[simp] theorem State.useDraw_stack (s : State) : (s.useDraw).stack = s.stack := rfl
@[simp] theorem State.useDraw_mem (s : State) : (s.useDraw).mem = s.mem := rfl
@[simp] theorem State.useDraw_status (s : State) : (s.useDraw).status = s.status := rfl
@[simp] theorem State.useDraw_diags (s : State) : (s.useDraw).diags = s.diags := rfl
@[simp] theorem State.useDraw_config (s : State) : (s.useDraw).config = s.config := rfl
@[simp] theorem State.useDraw_keys (s : State) : (s.useDraw).keys = s.keys := rfl
@[simp] theorem State.useDraw_draws (s : State) : (s.useDraw).draws = s.draws + 1 := rfl
@[simp] theorem State.useDraw_getV (s : State) (k : Nibble) : (s.useDraw).getV k = s.getV k := rfl
@[simp] theorem State.useDraw_byteAt (s : State) (i : Nat) : (s.useDraw).byteAt i = s.byteAt i := rfl

/-! `State.diag`. -/

@[simp] theorem State.diag_v (s : State) (d : Diag) : (s.diag d).v = s.v := rfl
@[simp] theorem State.diag_index (s : State) (d : Diag) : (s.diag d).index = s.index := rfl
@[simp] theorem State.diag_pc (s : State) (d : Diag) : (s.diag d).pc = s.pc := rfl
@[simp] theorem State.diag_dt (s : State) (d : Diag) : (s.diag d).dt = s.dt := rfl
@[simp] theorem State.diag_st (s : State) (d : Diag) : (s.diag d).st = s.st := rfl
@[simp] theorem State.diag_latch (s : State) (d : Diag) : (s.diag d).latch = s.latch := rfl
@[simp] theorem State.diag_fb (s : State) (d : Diag) : (s.diag d).fb = s.fb := rfl
@[simp] theorem State.diag_stack (s : State) (d : Diag) : (s.diag d).stack = s.stack := rfl
@[simp] theorem State.diag_mem (s : State) (d : Diag) : (s.diag d).mem = s.mem := rfl
@[simp] theorem State.diag_status (s : State) (d : Diag) : (s.diag d).status = s.status := rfl
@[simp] theorem State.diag_diags (s : State) (d : Diag) : (s.diag d).diags = s.diags ++ [d] := rfl
@[simp] theorem State.diag_config (s : State) (d : Diag) : (s.diag d).config = s.config := rfl
@[simp] theorem State.diag_keys (s : State) (d : Diag) : (s.diag d).keys = s.keys := rfl
@[simp] theorem State.diag_draws (s : State) (d : Diag) : (s.diag d).draws = s.draws := rfl
@[simp] theorem State.diag_getV (s : State) (d : Diag) (k : Nibble) : (s.diag d).getV k = s.getV k := rfl
@[simp] theorem State.diag_byteAt (s : State) (d : Diag) (i : Nat) : (s.diag d).byteAt i = s.byteAt i := rfl

/-! `State.poll`. -/

@[simp] theorem State.poll_v (s : State) (k : Keypad) : (s.poll k).v = s.v := rfl
@[simp] theorem State.poll_index (s : State) (k : Keypad) : (s.poll k).index = s.index := rfl
@[simp] theorem State.poll_pc (s : State) (k : Keypad) : (s.poll k).pc = s.pc := rfl
@[simp] theorem State.poll_dt (s : State) (k : Keypad) : (s.poll k).dt = s.dt := rfl
@[simp] theorem State.poll_st (s : State) (k : Keypad) : (s.poll k).st = s.st := rfl
@[simp] theorem State.poll_latch (s : State) (k : Keypad) : (s.poll k).latch = s.latch := rfl
@[simp] theorem State.poll_fb (s : State) (k : Keypad) : (s.poll k).fb = s.fb := rfl
@[simp] theorem State.poll_stack (s : State) (k : Keypad) : (s.poll k).stack = s.stack := rfl
@[simp] theorem State.poll_mem (s : State) (k : Keypad) : (s.poll k).mem = s.mem := rfl
@[simp] theorem State.poll_status (s : State) (k : Keypad) : (s.poll k).status = s.status := rfl
@[simp] theorem State.poll_diags (s : State) (k : Keypad) : (s.poll k).diags = s.diags := rfl
@[simp] theorem State.poll_config (s : State) (k : Keypad) : (s.poll k).config = s.config := rfl
@[simp] theorem State.poll_keys (s : State) (k : Keypad) : (s.poll k).keys = k := rfl
@[simp] theorem State.poll_draws (s : State) (k : Keypad) : (s.poll k).draws = s.draws := rfl
@[simp] theorem State.poll_getV (s : State) (q : Keypad) (k : Nibble) : (s.poll q).getV k = s.getV k := rfl
@[simp] theorem State.poll_byteAt (s : State) (k : Keypad) (i : Nat) : (s.poll k).byteAt i = s.byteAt i := rfl

/-! `State.raise`. -/

@[simp] theorem State.raise_v (s : State) (f : FatalFault) : (s.raise f).v = s.v := rfl
@[simp] theorem State.raise_index (s : State) (f : FatalFault) : (s.raise f).index = s.index := rfl
@[simp] theorem State.raise_pc (s : State) (f : FatalFault) : (s.raise f).pc = s.pc := rfl
@[simp] theorem State.raise_dt (s : State) (f : FatalFault) : (s.raise f).dt = s.dt := rfl
@[simp] theorem State.raise_st (s : State) (f : FatalFault) : (s.raise f).st = s.st := rfl
@[simp] theorem State.raise_latch (s : State) (f : FatalFault) : (s.raise f).latch = s.latch := rfl
@[simp] theorem State.raise_fb (s : State) (f : FatalFault) : (s.raise f).fb = s.fb := rfl
@[simp] theorem State.raise_stack (s : State) (f : FatalFault) : (s.raise f).stack = s.stack := rfl
@[simp] theorem State.raise_mem (s : State) (f : FatalFault) : (s.raise f).mem = s.mem := rfl
@[simp] theorem State.raise_status (s : State) (f : FatalFault) : (s.raise f).status = .faulted f := rfl
@[simp] theorem State.raise_diags (s : State) (f : FatalFault) : (s.raise f).diags = s.diags := rfl
@[simp] theorem State.raise_config (s : State) (f : FatalFault) : (s.raise f).config = s.config := rfl
@[simp] theorem State.raise_keys (s : State) (f : FatalFault) : (s.raise f).keys = s.keys := rfl
@[simp] theorem State.raise_draws (s : State) (f : FatalFault) : (s.raise f).draws = s.draws := rfl
@[simp] theorem State.raise_getV (s : State) (f : FatalFault) (k : Nibble) : (s.raise f).getV k = s.getV k := rfl
@[simp] theorem State.raise_byteAt (s : State) (f : FatalFault) (i : Nat) : (s.raise f).byteAt i = s.byteAt i := rfl

/-! `State.poke`. -/

@[simp] theorem State.poke_v (s : State) (a : Nat) (b : Byte) : (s.poke a b).v = s.v := rfl
@[simp] theorem State.poke_index (s : State) (a : Nat) (b : Byte) : (s.poke a b).index = s.index := rfl
@[simp] theorem State.poke_pc (s : State) (a : Nat) (b : Byte) : (s.poke a b).pc = s.pc := rfl
@[simp] theorem State.poke_dt (s : State) (a : Nat) (b : Byte) : (s.poke a b).dt = s.dt := rfl
@[simp] theorem State.poke_st (s : State) (a : Nat) (b : Byte) : (s.poke a b).st = s.st := rfl
@[simp] theorem State.poke_latch (s : State) (a : Nat) (b : Byte) : (s.poke a b).latch = s.latch := rfl
@[simp] theorem State.poke_fb (s : State) (a : Nat) (b : Byte) : (s.poke a b).fb = s.fb := rfl
@[simp] theorem State.poke_stack (s : State) (a : Nat) (b : Byte) : (s.poke a b).stack = s.stack := rfl
@[simp] theorem State.poke_mem (s : State) (a : Nat) (b : Byte) : (s.poke a b).mem = s.mem.write a b := rfl
@[simp] theorem State.poke_status (s : State) (a : Nat) (b : Byte) : (s.poke a b).status = s.status := rfl
@[simp] theorem State.poke_diags (s : State) (a : Nat) (b : Byte) : (s.poke a b).diags = s.diags := rfl
@[simp] theorem State.poke_config (s : State) (a : Nat) (b : Byte) : (s.poke a b).config = s.config := rfl
@[simp] theorem State.poke_keys (s : State) (a : Nat) (b : Byte) : (s.poke a b).keys = s.keys := rfl
@[simp] theorem State.poke_draws (s : State) (a : Nat) (b : Byte) : (s.poke a b).draws = s.draws := rfl
@[simp] theorem State.poke_getV (s : State) (a : Nat) (b : Byte) (k : Nibble) : (s.poke a b).getV k = s.getV k := rfl

/-! `State.push`. -/

@[simp] theorem State.push_v (s : State) (w : Word) : (s.push w).v = s.v := rfl
@[simp] theorem State.push_index (s : State) (w : Word) : (s.push w).index = s.index := rfl
@[simp] theorem State.push_pc (s : State) (w : Word) : (s.push w).pc = s.pc := rfl
@[simp] theorem State.push_dt (s : State) (w : Word) : (s.push w).dt = s.dt := rfl
@[simp] theorem State.push_st (s : State) (w : Word) : (s.push w).st = s.st := rfl
@[simp] theorem State.push_latch (s : State) (w : Word) : (s.push w).latch = s.latch := rfl
@[simp] theorem State.push_fb (s : State) (w : Word) : (s.push w).fb = s.fb := rfl
@[simp] theorem State.push_stack (s : State) (w : Word) : (s.push w).stack = w :: s.stack := rfl
@[simp] theorem State.push_mem (s : State) (w : Word) : (s.push w).mem = s.mem := rfl
@[simp] theorem State.push_status (s : State) (w : Word) : (s.push w).status = s.status := rfl
@[simp] theorem State.push_diags (s : State) (w : Word) : (s.push w).diags = s.diags := rfl
@[simp] theorem State.push_config (s : State) (w : Word) : (s.push w).config = s.config := rfl
@[simp] theorem State.push_keys (s : State) (w : Word) : (s.push w).keys = s.keys := rfl
@[simp] theorem State.push_draws (s : State) (w : Word) : (s.push w).draws = s.draws := rfl
@[simp] theorem State.push_getV (s : State) (w : Word) (k : Nibble) : (s.push w).getV k = s.getV k := rfl
@[simp] theorem State.push_byteAt (s : State) (w : Word) (i : Nat) : (s.push w).byteAt i = s.byteAt i := rfl

/-! `State.advance`. -/

@[simp] theorem State.advance_v (s : State) : (s.advance).v = s.v := rfl
@[simp] theorem State.advance_index (s : State) : (s.advance).index = s.index := rfl
@[simp] theorem State.advance_pc (s : State) : (s.advance).pc = s.pc + 2 := rfl
@[simp] theorem State.advance_dt (s : State) : (s.advance).dt = s.dt := rfl
@[simp] theorem State.advance_st (s : State) : (s.advance).st = s.st := rfl
@[simp] theorem State.advance_latch (s : State) : (s.advance).latch = s.latch := rfl
@[simp] theorem State.advance_fb (s : State) : (s.advance).fb = s.fb := rfl
@[simp] theorem State.advance_stack (s : State) : (s.advance).stack = s.stack := rfl
@[simp] theorem State.advance_mem (s : State) : (s.advance).mem = s.mem := rfl
@[simp] theorem State.advance_status (s : State) : (s.advance).status = s.status := rfl
@[simp] theorem State.advance_diags (s : State) : (s.advance).diags = s.diags := rfl
@[simp] theorem State.advance_config (s : State) : (s.advance).config = s.config := rfl
@[simp] theorem State.advance_keys (s : State) : (s.advance).keys = s.keys := rfl
@[simp] theorem State.advance_draws (s : State) : (s.advance).draws = s.draws := rfl
@[simp] theorem State.advance_getV (s : State) (k : Nibble) : (s.advance).getV k = s.getV k := rfl
@[simp] theorem State.advance_byteAt (s : State) (i : Nat) : (s.advance).byteAt i = s.byteAt i := rfl

/-! `State.stay`. -/

@[simp] theorem State.stay_v (s : State) : (s.stay).v = s.v := rfl
@[simp] theorem State.stay_index (s : State) : (s.stay).index = s.index := rfl
@[simp] theorem State.stay_pc (s : State) : (s.stay).pc = s.pc - 2 := rfl
@[simp] theorem State.stay_dt (s : State) : (s.stay).dt = s.dt := rfl
@[simp] theorem State.stay_st (s : State) : (s.stay).st = s.st := rfl
@[simp] theorem State.stay_latch (s : State) : (s.stay).latch = s.latch := rfl
@[simp] theorem State.stay_fb (s : State) : (s.stay).fb = s.fb := rfl
@[simp] theorem State.stay_stack (s : State) : (s.stay).stack = s.stack := rfl
@[simp] theorem State.stay_mem (s : State) : (s.stay).mem = s.mem := rfl
@[simp] theorem State.stay_status (s : State) : (s.stay).status = s.status := rfl
@[simp] theorem State.stay_diags (s : State) : (s.stay).diags = s.diags := rfl
@[simp] theorem State.stay_config (s : State) : (s.stay).config = s.config := rfl
@[simp] theorem State.stay_keys (s : State) : (s.stay).keys = s.keys := rfl
@[simp] theorem State.stay_draws (s : State) : (s.stay).draws = s.draws := rfl
@[simp] theorem State.stay_getV (s : State) (k : Nibble) : (s.stay).getV k = s.getV k := rfl
@[simp] theorem State.stay_byteAt (s : State) (i : Nat) : (s.stay).byteAt i = s.byteAt i := rfl

/-! `State.setFlag`. -/

@[simp] theorem State.setFlag_v (s : State) (b : Byte) : (s.setFlag b).v = s.v.set vf b := rfl
@[simp] theorem State.setFlag_index (s : State) (b : Byte) : (s.setFlag b).index = s.index := rfl
@[simp] theorem State.setFlag_pc (s : State) (b : Byte) : (s.setFlag b).pc = s.pc := rfl
@[simp] theorem State.setFlag_dt (s : State) (b : Byte) : (s.setFlag b).dt = s.dt := rfl
@[simp] theorem State.setFlag_st (s : State) (b : Byte) : (s.setFlag b).st = s.st := rfl
@[simp] theorem State.setFlag_latch (s : State) (b : Byte) : (s.setFlag b).latch = s.latch := rfl
@[simp] theorem State.setFlag_fb (s : State) (b : Byte) : (s.setFlag b).fb = s.fb := rfl
@[simp] theorem State.setFlag_stack (s : State) (b : Byte) : (s.setFlag b).stack = s.stack := rfl
@[simp] theorem State.setFlag_mem (s : State) (b : Byte) : (s.setFlag b).mem = s.mem := rfl
@[simp] theorem State.setFlag_status (s : State) (b : Byte) : (s.setFlag b).status = s.status := rfl
@[simp] theorem State.setFlag_diags (s : State) (b : Byte) : (s.setFlag b).diags = s.diags := rfl
@[simp] theorem State.setFlag_config (s : State) (b : Byte) : (s.setFlag b).config = s.config := rfl
@[simp] theorem State.setFlag_keys (s : State) (b : Byte) : (s.setFlag b).keys = s.keys := rfl
@[simp] theorem State.setFlag_draws (s : State) (b : Byte) : (s.setFlag b).draws = s.draws := rfl
@[simp] theorem State.setFlag_byteAt (s : State) (b : Byte) (i : Nat) : (s.setFlag b).byteAt i = s.byteAt i := rfl

/-! Reading a register after a write (10 R102: no register aliases another). -/

@[simp] theorem State.getV_setV_same (s : State) (x : Nibble) (b : Byte) : (s.setV x b).getV x = b := by
  simp [State.getV, State.setV]

theorem State.getV_setV_ne (s : State) {x k : Nibble} (b : Byte) (h : k ≠ x) : (s.setV x b).getV k = s.getV k := by
  have hv : (x : Nat) ≠ k := fun e => h (Fin.ext e.symm)
  simp [State.getV, State.setV, hv]

theorem State.getV_setV (s : State) (x k : Nibble) (b : Byte) :
    (s.setV x b).getV k = if k = x then b else s.getV k := by
  split
  · subst_vars; simp
  · exact State.getV_setV_ne s b ‹_›

theorem State.setFlag_eq_setV (s : State) (b : Byte) : s.setFlag b = s.setV vf b := rfl

theorem State.getV_setFlag (s : State) (k : Nibble) (b : Byte) :
    (s.setFlag b).getV k = if k = vf then b else s.getV k := State.getV_setV s vf k b

/-! The conditional updates: a skip, quirk-D's increment of `I`, quirk-A's copy. -/

@[simp] theorem State.skipIf_v (s : State) (c : Bool) : (s.skipIf c).v = s.v := by unfold State.skipIf; split <;> rfl
@[simp] theorem State.skipIf_index (s : State) (c : Bool) : (s.skipIf c).index = s.index := by unfold State.skipIf; split <;> rfl
@[simp] theorem State.skipIf_dt (s : State) (c : Bool) : (s.skipIf c).dt = s.dt := by unfold State.skipIf; split <;> rfl
@[simp] theorem State.skipIf_st (s : State) (c : Bool) : (s.skipIf c).st = s.st := by unfold State.skipIf; split <;> rfl
@[simp] theorem State.skipIf_latch (s : State) (c : Bool) : (s.skipIf c).latch = s.latch := by unfold State.skipIf; split <;> rfl
@[simp] theorem State.skipIf_fb (s : State) (c : Bool) : (s.skipIf c).fb = s.fb := by unfold State.skipIf; split <;> rfl
@[simp] theorem State.skipIf_stack (s : State) (c : Bool) : (s.skipIf c).stack = s.stack := by unfold State.skipIf; split <;> rfl
@[simp] theorem State.skipIf_mem (s : State) (c : Bool) : (s.skipIf c).mem = s.mem := by unfold State.skipIf; split <;> rfl
@[simp] theorem State.skipIf_status (s : State) (c : Bool) : (s.skipIf c).status = s.status := by unfold State.skipIf; split <;> rfl
@[simp] theorem State.skipIf_diags (s : State) (c : Bool) : (s.skipIf c).diags = s.diags := by unfold State.skipIf; split <;> rfl
@[simp] theorem State.skipIf_config (s : State) (c : Bool) : (s.skipIf c).config = s.config := by unfold State.skipIf; split <;> rfl
@[simp] theorem State.skipIf_keys (s : State) (c : Bool) : (s.skipIf c).keys = s.keys := by unfold State.skipIf; split <;> rfl
@[simp] theorem State.skipIf_draws (s : State) (c : Bool) : (s.skipIf c).draws = s.draws := by unfold State.skipIf; split <;> rfl
@[simp] theorem State.skipIf_getV (s : State) (c : Bool) (k : Nibble) : (s.skipIf c).getV k = s.getV k := by unfold State.skipIf; split <;> rfl
@[simp] theorem State.skipIf_byteAt (s : State) (c : Bool) (i : Nat) : (s.skipIf c).byteAt i = s.byteAt i := by unfold State.skipIf; split <;> rfl

theorem State.skipIf_pc (s : State) (c : Bool) : (s.skipIf c).pc = if c then s.pc + 2 else s.pc := by
  cases c <;> rfl

@[simp] theorem incrementIndex_v (x : Nibble) (s : State) : (incrementIndex x s).v = s.v := by unfold incrementIndex; split <;> rfl
@[simp] theorem incrementIndex_pc (x : Nibble) (s : State) : (incrementIndex x s).pc = s.pc := by unfold incrementIndex; split <;> rfl
@[simp] theorem incrementIndex_dt (x : Nibble) (s : State) : (incrementIndex x s).dt = s.dt := by unfold incrementIndex; split <;> rfl
@[simp] theorem incrementIndex_st (x : Nibble) (s : State) : (incrementIndex x s).st = s.st := by unfold incrementIndex; split <;> rfl
@[simp] theorem incrementIndex_latch (x : Nibble) (s : State) : (incrementIndex x s).latch = s.latch := by unfold incrementIndex; split <;> rfl
@[simp] theorem incrementIndex_fb (x : Nibble) (s : State) : (incrementIndex x s).fb = s.fb := by unfold incrementIndex; split <;> rfl
@[simp] theorem incrementIndex_stack (x : Nibble) (s : State) : (incrementIndex x s).stack = s.stack := by unfold incrementIndex; split <;> rfl
@[simp] theorem incrementIndex_mem (x : Nibble) (s : State) : (incrementIndex x s).mem = s.mem := by unfold incrementIndex; split <;> rfl
@[simp] theorem incrementIndex_status (x : Nibble) (s : State) : (incrementIndex x s).status = s.status := by unfold incrementIndex; split <;> rfl
@[simp] theorem incrementIndex_diags (x : Nibble) (s : State) : (incrementIndex x s).diags = s.diags := by unfold incrementIndex; split <;> rfl
@[simp] theorem incrementIndex_config (x : Nibble) (s : State) : (incrementIndex x s).config = s.config := by unfold incrementIndex; split <;> rfl
@[simp] theorem incrementIndex_keys (x : Nibble) (s : State) : (incrementIndex x s).keys = s.keys := by unfold incrementIndex; split <;> rfl
@[simp] theorem incrementIndex_draws (x : Nibble) (s : State) : (incrementIndex x s).draws = s.draws := by unfold incrementIndex; split <;> rfl
@[simp] theorem incrementIndex_getV (x : Nibble) (s : State) (k : Nibble) : (incrementIndex x s).getV k = s.getV k := by unfold incrementIndex; split <;> rfl
@[simp] theorem incrementIndex_byteAt (x : Nibble) (s : State) (i : Nat) : (incrementIndex x s).byteAt i = s.byteAt i := by unfold incrementIndex; split <;> rfl

theorem incrementIndex_index (x : Nibble) (s : State) : (incrementIndex x s).index =
    if s.config.quirkD then BitVec.ofNat 16 (s.index.toNat + x.val + 1) else s.index := by
  unfold incrementIndex; split <;> rfl

@[simp] theorem shiftSource_index (s : State) (x y : Nibble) : (shiftSource s x y).index = s.index := by unfold shiftSource; split <;> rfl
@[simp] theorem shiftSource_pc (s : State) (x y : Nibble) : (shiftSource s x y).pc = s.pc := by unfold shiftSource; split <;> rfl
@[simp] theorem shiftSource_dt (s : State) (x y : Nibble) : (shiftSource s x y).dt = s.dt := by unfold shiftSource; split <;> rfl
@[simp] theorem shiftSource_st (s : State) (x y : Nibble) : (shiftSource s x y).st = s.st := by unfold shiftSource; split <;> rfl
@[simp] theorem shiftSource_latch (s : State) (x y : Nibble) : (shiftSource s x y).latch = s.latch := by unfold shiftSource; split <;> rfl
@[simp] theorem shiftSource_fb (s : State) (x y : Nibble) : (shiftSource s x y).fb = s.fb := by unfold shiftSource; split <;> rfl
@[simp] theorem shiftSource_stack (s : State) (x y : Nibble) : (shiftSource s x y).stack = s.stack := by unfold shiftSource; split <;> rfl
@[simp] theorem shiftSource_mem (s : State) (x y : Nibble) : (shiftSource s x y).mem = s.mem := by unfold shiftSource; split <;> rfl
@[simp] theorem shiftSource_status (s : State) (x y : Nibble) : (shiftSource s x y).status = s.status := by unfold shiftSource; split <;> rfl
@[simp] theorem shiftSource_diags (s : State) (x y : Nibble) : (shiftSource s x y).diags = s.diags := by unfold shiftSource; split <;> rfl
@[simp] theorem shiftSource_config (s : State) (x y : Nibble) : (shiftSource s x y).config = s.config := by unfold shiftSource; split <;> rfl
@[simp] theorem shiftSource_keys (s : State) (x y : Nibble) : (shiftSource s x y).keys = s.keys := by unfold shiftSource; split <;> rfl
@[simp] theorem shiftSource_draws (s : State) (x y : Nibble) : (shiftSource s x y).draws = s.draws := by unfold shiftSource; split <;> rfl
@[simp] theorem shiftSource_byteAt (s : State) (x y : Nibble) (i : Nat) : (shiftSource s x y).byteAt i = s.byteAt i := by unfold shiftSource; split <;> rfl

theorem shiftSource_getV (s : State) (x y k : Nibble) : (shiftSource s x y).getV k =
    if k = x then (if s.config.quirkA then s.getV y else s.getV x) else s.getV k := by
  unfold shiftSource
  split
  · rw [State.getV_setV]
  · split
    · subst_vars; rfl
    · rfl

/-! Numbers of the word type. -/

theorem toNat_zext16 (nnn : Addr12) : (zext16 nnn).toNat = nnn.toNat := by
  have := nnn.isLt
  simp [zext16]; omega

theorem toNat_lowBitFlag (a : Byte) : (lowBitFlag a).toNat = a.toNat % 2 := by revert a; decide

theorem toNat_highBitFlag (a : Byte) : (highBitFlag a).toNat = a.toNat / 128 := by revert a; decide

end Sys2Proof.Machine
end

