-- ==== Sys2Proof/Laws/Ops.lean ====
section
/-!
SUPPORT. What each shared operation can do, said once: the block accesses, the stack, the key choice. Proofs about an
instruction cite these and do not unfold the operations.
-/

namespace Sys2Proof.Machine

/-! Bytes of the state. -/

theorem State.byteAt_poke (s : State) (a : Nat) (b : Byte) (i : Nat) :
    (s.poke a b).byteAt i = if i = a then b else s.byteAt i := Memory.read_write s.mem a b i

theorem State.byteAt_setMem_writeList (s : State) (a : Nat) (vs : List Byte) (i : Nat) :
    (s.setMem (s.mem.writeList a vs)).byteAt i = if a ≤ i ∧ i < a + vs.length then vs.getD (i - a) 0 else s.byteAt i :=
  Memory.read_writeList vs s.mem a i

theorem State.memRead_ok {s : State} {a : Nat} (h : a < Config.memSize) : s.memRead a = .ok (s.byteAt a) := by
  simp [State.memRead, inBounds, h]

theorem State.memRead_error {s : State} {a : Nat} (h : Config.memSize ≤ a) : s.memRead a = .error (.outOfBounds a) := by
  have : ¬ a < Config.memSize := by omega
  simp only [State.memRead, inBounds, this, decide_false]
  rfl

/-! The fetch (40 R402, R403). -/

theorem State.fetch_ok {s : State} (h : s.pc.toNat + 1 < Config.memSize) :
    s.fetch = .ok (wordOfBytes (s.byteAt s.pc.toNat) (s.byteAt (s.pc.toNat + 1))) := by
  simp only [State.fetch, State.memReadWord, State.memRead_ok h, State.memRead_ok (Nat.lt_of_succ_lt h)]

theorem State.fetch_error {s : State} (h : Config.memSize ≤ s.pc.toNat + 1) :
    s.fetch = .error (.outOfBounds (max s.pc.toNat Config.memSize)) := by
  by_cases hp : Config.memSize ≤ s.pc.toNat
  · simp only [State.fetch, State.memReadWord, State.memRead_error hp, Nat.max_eq_left hp]
  · have e : s.pc.toNat + 1 = Config.memSize := by omega
    simp only [State.fetch, State.memReadWord, State.memRead_ok (Nat.lt_of_not_le hp), e,
      State.memRead_error (Nat.le_refl Config.memSize), Nat.max_eq_right (Nat.le_of_not_le hp)]

/-- A fetch that succeeds was inside memory. -/
theorem State.pc_of_fetch_ok {s : State} {w : Word} (h : s.fetch = .ok w) : s.pc.toNat + 1 < Config.memSize := by
  by_contra hc
  rw [State.fetch_error (Nat.le_of_not_lt hc)] at h
  cases h

/-- The fetch depends on `pc` and on memory only. -/
theorem State.fetch_congr {s t : State} (hp : t.pc = s.pc) (hm : t.mem = s.mem) : t.fetch = s.fetch := by
  simp only [State.fetch, State.memReadWord, State.memRead, State.byteAt, hp, hm]

/-! Storing a block (20 R209, 40 R409). -/

/-- A block inside memory is stored whole. -/
theorem State.storeBytes_done (bs : List Byte) : ∀ (a : Nat) (s : State), a + bs.length ≤ Config.memSize →
    State.storeBytes bs a s = .done (s.setMem (s.mem.writeList a bs)) := by
  induction bs with
  | nil => intro a s _; rfl
  | cons b bs ih =>
    intro a s h
    simp only [List.length_cons] at h
    have ha : a < Config.memSize := by omega
    simp only [State.storeBytes, inBounds, ha, decide_true, if_true]
    rw [ih _ _ (by omega)]
    rfl

/-- A block that leaves memory is stored up to the end of memory; the first address outside is recorded. -/
theorem State.storeBytes_raised (bs : List Byte) : ∀ (a : Nat) (s : State), bs ≠ [] → Config.memSize < a + bs.length →
    State.storeBytes bs a s = .raised (.outOfBounds (max a Config.memSize))
      (s.setMem (s.mem.writeList a (bs.take (Config.memSize - a)))) := by
  induction bs with
  | nil => intro a s h; exact absurd rfl h
  | cons b bs ih =>
    intro a s _ h
    simp only [List.length_cons] at h
    by_cases ha : a < Config.memSize
    · have hb : bs ≠ [] := by rintro rfl; simp at h; omega
      have e : Config.memSize - a = (Config.memSize - (a + 1)) + 1 := by omega
      simp only [State.storeBytes, inBounds, ha, decide_true, if_true]
      rw [ih (a + 1) _ hb (by omega), e, List.take_succ_cons, Nat.max_eq_right (Nat.succ_le_of_lt ha),
        Nat.max_eq_right (Nat.le_of_lt ha)]
      rfl
    · have e : Config.memSize - a = 0 := by omega
      simp only [State.storeBytes, inBounds, ha, decide_false, Bool.false_eq_true, if_false, e, List.take_zero,
        Nat.max_eq_left (Nat.le_of_not_lt ha)]
      rfl

/-! Register ranges (43 R705, R706). -/

theorem mem_regRange {x k : Nibble} : k ∈ regRange x ↔ k ≤ x := by
  simp [regRange]

theorem length_regRange : ∀ x : Nibble, (regRange x).length = x.val + 1 := by decide

theorem regRange_getElem : ∀ x k : Nibble, k ≤ x → (regRange x)[k.val]? = some k := by decide

theorem length_regBytes (s : State) (x : Nibble) : (regBytes s x).length = x.val + 1 := by
  simp [regBytes, length_regRange]

theorem regBytes_getD (s : State) (x k : Nibble) (h : k ≤ x) : (regBytes s x).getD k.val 0 = s.getV k := by
  simp [regBytes, List.getD, regRange_getElem x k h]

/-! Loading a block (20 R209, 40 R409). -/

/-- The registers of a list numbered upward from `c` are loaded from `a` upward, up to the end of memory: what the state
is afterwards. -/
structure Loaded (xs : List Nibble) (c a : Nat) (s t : State) : Prop where
  regs : ∀ k : Nibble, t.getV k =
    if c ≤ k.val ∧ k.val < c + xs.length ∧ a + (k.val - c) < Config.memSize then s.byteAt (a + (k.val - c)) else s.getV k
  rest : t = { s with v := t.v }

theorem State.loadRegisters_spec (xs : List Nibble) : ∀ (c a : Nat) (s : State),
    (∀ j (hj : j < xs.length), (xs[j]).val = c + j) →
    ∃ t, Loaded xs c a s t ∧ State.loadRegisters xs a s =
      if a + xs.length ≤ Config.memSize ∨ xs = [] then .done t else .raised (.outOfBounds (max a Config.memSize)) t := by
  induction xs with
  | nil =>
    intro c a s _
    refine ⟨s, ⟨fun k => ?_, rfl⟩, by simp [State.loadRegisters]⟩
    rw [if_neg (by simp; omega)]
  | cons x xs ih =>
    intro c a s hx
    have hx0 : x.val = c := hx 0 (by simp)
    by_cases ha : a < Config.memSize
    · obtain ⟨t, ht, he⟩ := ih (c + 1) (a + 1) (s.setV x (s.byteAt a)) (fun j hj => by
        have := hx (j + 1) (by simpa using hj)
        simp only [List.getElem_cons_succ] at this
        omega)
      refine ⟨t, ⟨fun k => ?_, ?_⟩, ?_⟩
      · rw [ht.regs k, State.getV_setV, State.setV_byteAt]
        simp only [List.length_cons]
        by_cases hk : k = x
        · subst hk
          rw [if_neg (by omega), if_pos rfl, if_pos (by omega), hx0, Nat.sub_self, Nat.add_zero]
        · have hkc : k.val ≠ c := fun e => hk (Fin.ext (e.trans hx0.symm))
          by_cases h1 : c + 1 ≤ k.val ∧ k.val < c + 1 + xs.length ∧ a + 1 + (k.val - (c + 1)) < Config.memSize
          · rw [if_pos h1, if_pos (by omega)]
            congr 1; omega
          · rw [if_neg h1, if_neg hk, if_neg (by omega)]
      · rw [ht.rest]; rfl
      · simp only [State.loadRegisters, State.memRead_ok ha, he]
        by_cases hn : xs = []
        · subst hn; simp; omega
        · simp only [hn, or_false, List.length_cons, reduceCtorEq]
          have : a + 1 + xs.length = a + (xs.length + 1) := by omega
          rw [this, Nat.max_eq_right (Nat.succ_le_of_lt ha), Nat.max_eq_right (Nat.le_of_lt ha)]
    · refine ⟨s, ⟨fun k => by rw [if_neg (by omega)], rfl⟩, ?_⟩
      simp only [State.loadRegisters, State.memRead_error (Nat.le_of_not_lt ha), reduceCtorEq, or_false,
        List.length_cons, Nat.max_eq_left (Nat.le_of_not_lt ha)]
      rw [if_neg (by omega)]

/-- FX65's loads: `V0..Vx` from `a` upward. -/
theorem State.loadRegisters_regRange (x : Nibble) (a : Nat) (s : State) :
    ∃ t, Loaded (regRange x) 0 a s t ∧ State.loadRegisters (regRange x) a s =
      if a + x.val + 1 ≤ Config.memSize then .done t else .raised (.outOfBounds (max a Config.memSize)) t := by
  obtain ⟨t, ht, he⟩ := State.loadRegisters_spec (regRange x) 0 a s (fun j hj => by
    have hl := length_regRange x
    have hj16 : j < 16 := by omega
    have := regRange_getElem x ⟨j, hj16⟩ (by show j ≤ x.val; omega)
    rw [List.getElem?_eq_getElem hj, Option.some.injEq] at this
    rw [this]; simp)
  refine ⟨t, ht, he.trans ?_⟩
  have hn : regRange x ≠ [] := by
    intro e; have := length_regRange x; rw [e] at this; simp at this
  simp only [hn, or_false, length_regRange]
  rfl

/-! Reading a sprite (44 R803). -/

theorem State.readBytes_ok (s : State) : ∀ (n a : Nat), a + n ≤ Config.memSize →
    s.readBytes n a = .ok (s.bytesFrom a n) := by
  intro n
  induction n with
  | zero => intro a _; rfl
  | succ n ih =>
    intro a h
    have ha : a < Config.memSize := by omega
    simp only [State.readBytes, State.memRead_ok ha, ih (a + 1) (by omega), State.bytesFrom, List.range_succ_eq_map,
      List.map_cons, List.map_map, Nat.add_zero]
    congr 2
    apply List.map_congr_left
    intro k _
    simp only [Function.comp]
    congr 1; omega

theorem State.readBytes_error (s : State) : ∀ (n a : Nat), 0 < n → Config.memSize < a + n →
    s.readBytes n a = .error (.outOfBounds (max a Config.memSize)) := by
  intro n
  induction n with
  | zero => intro a h; omega
  | succ n ih =>
    intro a _ h
    by_cases ha : a < Config.memSize
    · have hn : 0 < n := by omega
      simp only [State.readBytes, State.memRead_ok ha, ih (a + 1) hn (by omega),
        Nat.max_eq_right (Nat.succ_le_of_lt ha), Nat.max_eq_right (Nat.le_of_lt ha)]
    · simp only [State.readBytes, State.memRead_error (Nat.le_of_not_lt ha), Nat.max_eq_left (Nat.le_of_not_lt ha)]

/-! The key choice (45 R906). -/

theorem State.mem_keysDown (s : State) (k : Nibble) : k ∈ s.keysDown ↔ s.keyDown k = true := by
  simp [State.keysDown]

/-- No choice exactly when no key is down. -/
theorem State.pickKey_eq_none (s : State) : s.pickKey = none ↔ ∀ k, s.keyDown k = false := by
  have hk : s.keysDown = [] ↔ ∀ k, s.keyDown k = false := by
    simp [State.keysDown, List.filter_eq_nil_iff]
  rw [← hk]
  unfold State.pickKey
  split <;> simp_all

/-- The key chosen is down. -/
theorem State.keyDown_of_pickKey {s : State} {k : Nibble} (h : s.pickKey = some k) : s.keyDown k = true := by
  rw [← State.mem_keysDown]
  unfold State.pickKey at h
  split at h
  · cases h
  · simp_all
  · rename_i a l _ he
    have hl : Config.keyPick s.draws % (a :: l).length < (a :: l).length := Nat.mod_lt _ (by simp)
    simp only [List.getD, List.getElem?_eq_getElem hl, Option.getD_some, Option.some.injEq] at h
    rw [he, ← h]
    exact List.getElem_mem hl

end Sys2Proof.Machine
end

