-- ==== Sys2Proof/Laws/Frames.lean ====
section
/-!
SUPPORT. The frames of the shared updates: what each leaves unchanged, in the terms of `Unchanged`.
-/

namespace Sys2Proof.Machine

theorem Unchanged.refl (w : Writes) (s : State) : Unchanged w s s := by constructor <;> simp

/-- Writing one register. -/
theorem Unchanged.setV (s : State) (x : Nibble) (b : Byte) : Unchanged (Writes.onlyRegs [x]) s (s.setV x b) := by
  constructor <;> simp [Writes.onlyRegs]
  intro k hk; exact State.getV_setV_ne s b hk

/-- Writing one register and then VF. -/
theorem Unchanged.setV_setFlag (s : State) (x : Nibble) (b c : Byte) :
    Unchanged (Writes.onlyRegs [x, vf]) s ((s.setV x b).setFlag c) := by
  constructor <;> simp [Writes.onlyRegs]
  intro k hk hf; rw [State.getV_setFlag, if_neg hf]; exact State.getV_setV_ne s b hk

/-- A jump. -/
theorem Unchanged.setPc (s : State) (w : Word) : Unchanged Writes.onlyPc s (s.setPc w) := by
  constructor <;> simp [Writes.onlyPc]

/-- A skip. -/
theorem Unchanged.skipIf (s : State) (c : Bool) : Unchanged Writes.onlyPc s (s.skipIf c) := by
  constructor <;> simp [Writes.onlyPc]

/-- Taking a fatal fault (60 R1001, R1004). -/
theorem Unchanged.raise (s : State) (f : FatalFault) : Unchanged Writes.onlyStatus s (s.raise f) := by
  constructor <;> simp [Writes.onlyStatus]

/-- Storing bytes. -/
theorem Unchanged.writeList (s : State) (a : Nat) (vs : List Byte) {n : Nat} (h : vs.length ≤ n) :
    Unchanged { storeAt := a, storeLen := n } s (s.setMem (s.mem.writeList a vs)) := by
  constructor <;> simp
  intro i hi
  rw [State.byteAt_setMem_writeList, if_neg (by omega)]

/-- Loading a block of registers. -/
theorem Loaded.unchanged {x : Nibble} {a : Nat} {s t : State} (h : Loaded (regRange x) 0 a s t) :
    Unchanged { regs := regRange x } s t := by
  constructor
  · intro k hk
    rw [h.regs k, if_neg]
    intro hc
    apply hk
    rw [mem_regRange]
    show k.val ≤ x.val
    have := length_regRange x
    omega
  all_goals (rw [h.rest]; try simp [State.byteAt])

/-- A frame may be widened. -/
theorem Unchanged.mono {w w' : Writes} {s t : State} (h : Unchanged w s t) (hr : ∀ k, k ∈ w.regs → k ∈ w'.regs)
    (hi : w'.index = false → w.index = false) (hpc : w'.pc = false → w.pc = false)
    (hdt : w'.dt = false → w.dt = false) (hst : w'.st = false → w.st = false)
    (hl : w'.latch = false → w.latch = false) (hfb : w'.fb = false → w.fb = false)
    (hsk : w'.stack = false → w.stack = false)
    (hb : ∀ a, a < w'.storeAt ∨ w'.storeAt + w'.storeLen ≤ a → a < w.storeAt ∨ w.storeAt + w.storeLen ≤ a)
    (hs : w'.status = false → w.status = false) (hd : w'.diags = false → w.diags = false)
    (hdr : w'.draws = false → w.draws = false) : Unchanged w' s t where
  regs k hk := h.regs k fun hm => hk (hr k hm)
  index e := h.index (hi e)
  pc e := h.pc (hpc e)
  dt e := h.dt (hdt e)
  st e := h.st (hst e)
  latch e := h.latch (hl e)
  fb e := h.fb (hfb e)
  stack e := h.stack (hsk e)
  bytes a ha := h.bytes a (hb a ha)
  status e := h.status (hs e)
  diags e := h.diags (hd e)
  draws e := h.draws (hdr e)
  config := h.config
  keys := h.keys

end Sys2Proof.Machine
end

