-- ==== Sys2Proof/Laws/PerInstr.lean ====
section
/-!
SUPPORT. The per-instruction family `RowMatch`: the word of every instruction, at every value of its operands, has the
fixed bits its row of spec/opcode_table.json gives (`mask` and `match`; 30 R304-R308).
-/

namespace Sys2Proof.Laws

/-- The encoding of the instruction lies in the row of the opcode table it stands for. -/
def RowMatch.Statement (i : Instr) : Prop := i.row.accepts (encode i) = true

/-- Keeping all of one part and none of the other. -/
theorem and_part (op : BitVec 4) (y m : BitVec 12) : (op ++ y) &&& (0xF#4 ++ m) = op ++ (y &&& m) := by
  rw [BitVec.and_append, show (0xF#4) = BitVec.allOnes 4 from rfl, BitVec.and_allOnes]

/-- The mask of format `A`, and of `XK` and `XYN`, keeps `op`. -/
theorem wordA_and (op : BitVec 4) (nnn : Addr12) : wordA op nnn &&& 0xF000#16 = op ++ 0#12 :=
  (and_part op nnn 0#12).trans (by rw [BitVec.and_zero])

/-- The mask of format `XF` keeps `op` and the function byte. -/
theorem wordXK_and (op : BitVec 4) (x : Nibble) (nn : Byte) :
    wordXK op x nn &&& 0xF0FF#16 = op ++ (0#4 ++ nn) := by
  refine (and_part op (nibbleBits x ++ nn) (0#4 ++ 0xFF#8)).trans ?_
  rw [BitVec.and_append, show (0xFF#8) = BitVec.allOnes 8 from rfl, BitVec.and_allOnes, BitVec.and_zero]

/-- The mask of format `XY` keeps `op` and the function nibble. -/
theorem wordXYN_and (op : BitVec 4) (x y : Nibble) (n : BitVec 4) :
    wordXYN op x y n &&& 0xF00F#16 = op ++ (0#4 ++ (0#4 ++ n)) := by
  refine (and_part op (nibbleBits x ++ (nibbleBits y ++ n)) (0#4 ++ (0#4 ++ 0xF#4))).trans ?_
  rw [BitVec.and_append, BitVec.and_append, show (0xF#4) = BitVec.allOnes 4 from rfl, BitVec.and_allOnes,
    BitVec.and_zero, BitVec.and_zero]

theorem accepts_wordA (op : BitVec 4) (nnn : Addr12) : (Row.mk 0xF000 (op ++ 0#12)).accepts (wordA op nnn) = true :=
  beq_iff_eq.mpr (wordA_and op nnn)

theorem accepts_wordXF (op : BitVec 4) (x : Nibble) (nn : Byte) :
    (Row.mk 0xF0FF (op ++ (0#4 ++ nn))).accepts (wordXK op x nn) = true :=
  beq_iff_eq.mpr (wordXK_and op x nn)

theorem accepts_wordXK (op : BitVec 4) (x : Nibble) (nn : Byte) :
    (Row.mk 0xF000 (op ++ 0#12)).accepts (wordXK op x nn) = true := accepts_wordA op (nibbleBits x ++ nn)

theorem accepts_wordXY (op : BitVec 4) (x y : Nibble) (n : BitVec 4) :
    (Row.mk 0xF00F (op ++ (0#4 ++ (0#4 ++ n)))).accepts (wordXYN op x y n) = true :=
  beq_iff_eq.mpr (wordXYN_and op x y n)

theorem accepts_wordXYN (op : BitVec 4) (x y : Nibble) (n : BitVec 4) :
    (Row.mk 0xF000 (op ++ 0#12)).accepts (wordXYN op x y n) = true :=
  accepts_wordA op (nibbleBits x ++ (nibbleBits y ++ n))

theorem RowMatch.cls : RowMatch.Statement .cls := by unfold RowMatch.Statement; decide
theorem RowMatch.ret : RowMatch.Statement .ret := by unfold RowMatch.Statement; decide
theorem RowMatch.jp (nnn : Addr12) : RowMatch.Statement (.jp nnn) := accepts_wordA 0x1 nnn
theorem RowMatch.call (nnn : Addr12) : RowMatch.Statement (.call nnn) := accepts_wordA 0x2 nnn
theorem RowMatch.seImm (x : Nibble) (nn : Byte) : RowMatch.Statement (.seImm x nn) := accepts_wordXK 0x3 x nn
theorem RowMatch.sneImm (x : Nibble) (nn : Byte) : RowMatch.Statement (.sneImm x nn) := accepts_wordXK 0x4 x nn
theorem RowMatch.seReg (x y : Nibble) : RowMatch.Statement (.seReg x y) := accepts_wordXY 0x5 x y 0x0
theorem RowMatch.ldImm (x : Nibble) (nn : Byte) : RowMatch.Statement (.ldImm x nn) := accepts_wordXK 0x6 x nn
theorem RowMatch.addImm (x : Nibble) (nn : Byte) : RowMatch.Statement (.addImm x nn) := accepts_wordXK 0x7 x nn
theorem RowMatch.ldReg (x y : Nibble) : RowMatch.Statement (.ldReg x y) := accepts_wordXY 0x8 x y 0x0
theorem RowMatch.orReg (x y : Nibble) : RowMatch.Statement (.orReg x y) := accepts_wordXY 0x8 x y 0x1
theorem RowMatch.andReg (x y : Nibble) : RowMatch.Statement (.andReg x y) := accepts_wordXY 0x8 x y 0x2
theorem RowMatch.xorReg (x y : Nibble) : RowMatch.Statement (.xorReg x y) := accepts_wordXY 0x8 x y 0x3
theorem RowMatch.addReg (x y : Nibble) : RowMatch.Statement (.addReg x y) := accepts_wordXY 0x8 x y 0x4
theorem RowMatch.subReg (x y : Nibble) : RowMatch.Statement (.subReg x y) := accepts_wordXY 0x8 x y 0x5
theorem RowMatch.shr (x y : Nibble) : RowMatch.Statement (.shr x y) := accepts_wordXY 0x8 x y 0x6
theorem RowMatch.subnReg (x y : Nibble) : RowMatch.Statement (.subnReg x y) := accepts_wordXY 0x8 x y 0x7
theorem RowMatch.shl (x y : Nibble) : RowMatch.Statement (.shl x y) := accepts_wordXY 0x8 x y 0xE
theorem RowMatch.sneReg (x y : Nibble) : RowMatch.Statement (.sneReg x y) := accepts_wordXY 0x9 x y 0x0
theorem RowMatch.ldI (nnn : Addr12) : RowMatch.Statement (.ldI nnn) := accepts_wordA 0xA nnn
theorem RowMatch.jpV0 (nnn : Addr12) : RowMatch.Statement (.jpV0 nnn) := accepts_wordA 0xB nnn
theorem RowMatch.rnd (x : Nibble) (nn : Byte) : RowMatch.Statement (.rnd x nn) := accepts_wordXK 0xC x nn
theorem RowMatch.drw (x y n : Nibble) : RowMatch.Statement (.drw x y n) := accepts_wordXYN 0xD x y (nibbleBits n)
theorem RowMatch.skp (x : Nibble) : RowMatch.Statement (.skp x) := accepts_wordXF 0xE x 0x9E
theorem RowMatch.sknp (x : Nibble) : RowMatch.Statement (.sknp x) := accepts_wordXF 0xE x 0xA1
theorem RowMatch.ldVxDt (x : Nibble) : RowMatch.Statement (.ldVxDt x) := accepts_wordXF 0xF x 0x07
theorem RowMatch.ldVxK (x : Nibble) : RowMatch.Statement (.ldVxK x) := accepts_wordXF 0xF x 0x0A
theorem RowMatch.ldDtVx (x : Nibble) : RowMatch.Statement (.ldDtVx x) := accepts_wordXF 0xF x 0x15
theorem RowMatch.ldStVx (x : Nibble) : RowMatch.Statement (.ldStVx x) := accepts_wordXF 0xF x 0x18
theorem RowMatch.addI (x : Nibble) : RowMatch.Statement (.addI x) := accepts_wordXF 0xF x 0x1E
theorem RowMatch.ldF (x : Nibble) : RowMatch.Statement (.ldF x) := accepts_wordXF 0xF x 0x29
theorem RowMatch.ldB (x : Nibble) : RowMatch.Statement (.ldB x) := accepts_wordXF 0xF x 0x33
theorem RowMatch.storeRegs (x : Nibble) : RowMatch.Statement (.storeRegs x) := accepts_wordXF 0xF x 0x55
theorem RowMatch.loadRegs (x : Nibble) : RowMatch.Statement (.loadRegs x) := accepts_wordXF 0xF x 0x65

end Sys2Proof.Laws
end

