-- ==== Sys2Proof/Laws/Step.lean ====
section
/-!
SUPPORT. What a step can do, said once (40 R413).
-/

namespace Sys2Proof.Machine

/-- The three ways a step answers a next state: the fetch faults, the word is an unknown encoding, or the instruction
fetched runs in the state whose `pc` has been advanced. -/
theorem step_cases {s t : State} (h : step s = .next t) :
    s.status = .running ∧
    ((∃ f, s.fetch = .error f ∧ t = s.raise f) ∨
     (∃ w, s.fetch = .ok w ∧ decodeWord w = none ∧ t = s.advance.unknownOpcode w) ∨
     (∃ i, s.nextInstr = some i ∧ exec i s.advance = .next t)) := by
  unfold step at h
  split at h
  · cases h
  · rename_i hr
    refine ⟨hr, ?_⟩
    split at h
    · rename_i f hf
      exact .inl ⟨f, hf, by cases h; rfl⟩
    · rename_i w hw
      unfold execWord at h
      split at h
      · rename_i i hi
        exact .inr (.inr ⟨i, by simp only [State.nextInstr, hw, hi], h⟩)
      · rename_i hi
        exact .inr (.inl ⟨w, hw, hi, by cases h; rfl⟩)

/-- A running step with an instruction to run is that instruction's meaning. -/
theorem step_of_nextInstr {s : State} {i : Instr} (hr : s.status = .running) (hi : s.nextInstr = some i) :
    step s = exec i s.advance := by
  unfold State.nextInstr at hi
  unfold step
  rw [hr]
  cases hf : s.fetch with
  | error f => rw [hf] at hi; cases hi
  | ok w => rw [hf] at hi; simp only [execWord, hi]

/-- A state with an instruction to run has its `pc` in memory. -/
theorem State.pc_of_nextInstr {s : State} {i : Instr} (hi : s.nextInstr = some i) : s.pc.toNat + 1 < Config.memSize := by
  unfold State.nextInstr at hi
  cases hf : s.fetch with
  | error f => rw [hf] at hi; cases hi
  | ok w => exact State.pc_of_fetch_ok hf

/-- The next instruction depends on `pc` and on memory only. -/
theorem State.nextInstr_congr {s t : State} (hp : t.pc = s.pc) (hm : t.mem = s.mem) : t.nextInstr = s.nextInstr := by
  unfold State.nextInstr
  rw [State.fetch_congr hp hm]

end Sys2Proof.Machine
end

