-- ==== Sys2Proof/Tests/Slice0.lean ====
section
/-!
SUPPORT. The model's own tests, each expected value from spec/ (95_test_vectors.md by the id named, or the encoding lines
of 41 to 45), and a witness for the hypotheses of each statement of Certificates/Slice0/Obligations.lean.
-/

namespace Sys2Proof.Tests

open Sys2Proof Sys2Proof.Machine

/-! Well-formedness: what each check refuses. -/

theorem test_wf_refuses_family0 : wellFormedWord 0x0123 = false := by decide
theorem test_wf_refuses_5XY1 : wellFormedWord 0x5121 = false := by decide
theorem test_wf_refuses_8XY8 : wellFormedWord 0x8128 = false := by decide
theorem test_wf_refuses_8XYF : wellFormedWord 0x812F = false := by decide
theorem test_wf_refuses_9XY1 : wellFormedWord 0x9121 = false := by decide
theorem test_wf_refuses_E0FF : wellFormedWord 0xE0FF = false := by decide
theorem test_wf_refuses_F0FF : wellFormedWord 0xF0FF = false := by decide
theorem test_wf_accepts_812E : wellFormedWord 0x812E = true := by decide
theorem test_wf_refuses_stack_limit_0 :
    Configuration.wellFormed { defaultConfiguration with stackLimit := some 0 } = false := by decide
theorem test_wf_accepts_unbounded_stack :
    Configuration.wellFormed { defaultConfiguration with stackLimit := none } = true := by decide
/-- LR1, LR2. -/
theorem test_romFits_3584 : romFits (List.replicate 3584 0) = true ∧ romFits (List.replicate 3585 0) = false := by
  simp only [romFits, List.length_replicate]; decide
/-- LR3. -/
theorem test_fontFits_79 : fontFits (List.replicate 79 0) = false ∧ fontFits (List.replicate 80 0) = true := by decide

/-! Decoding: a word of every row, written out bit by bit from its encoding line; x = 1 and y = 2 unless shown. -/

theorem test_decode_cls : decodeWord 0b0000000011100000#16 = some .cls := by decide
theorem test_decode_ret : decodeWord 0b0000000011101110#16 = some .ret := by decide
theorem test_decode_jp : decodeWord 0b0001001000110100#16 = some (.jp 0x234#12) := by decide
theorem test_decode_call : decodeWord 0b0010101111001101#16 = some (.call 0xBCD#12) := by decide
theorem test_decode_seImm : decodeWord 0b0011001101000010#16 = some (.seImm 3 0x42#8) := by decide
theorem test_decode_sneImm : decodeWord 0b0100001101000010#16 = some (.sneImm 3 0x42#8) := by decide
theorem test_decode_seReg : decodeWord 0b0101000100100000#16 = some (.seReg 1 2) := by decide
theorem test_decode_ldImm : decodeWord 0b0110101000101011#16 = some (.ldImm 10 0x2B#8) := by decide
theorem test_decode_addImm : decodeWord 0b0111000100100000#16 = some (.addImm 1 0x20#8) := by decide
theorem test_decode_ldReg : decodeWord 0b1000000100100000#16 = some (.ldReg 1 2) := by decide
theorem test_decode_orReg : decodeWord 0b1000000100100001#16 = some (.orReg 1 2) := by decide
theorem test_decode_andReg : decodeWord 0b1000000100100010#16 = some (.andReg 1 2) := by decide
theorem test_decode_xorReg : decodeWord 0b1000000100100011#16 = some (.xorReg 1 2) := by decide
theorem test_decode_addReg : decodeWord 0b1000000100100100#16 = some (.addReg 1 2) := by decide
theorem test_decode_subReg : decodeWord 0b1000000100100101#16 = some (.subReg 1 2) := by decide
theorem test_decode_shr : decodeWord 0b1000000100100110#16 = some (.shr 1 2) := by decide
theorem test_decode_subnReg : decodeWord 0b1000000100100111#16 = some (.subnReg 1 2) := by decide
theorem test_decode_shl : decodeWord 0b1000000100101110#16 = some (.shl 1 2) := by decide
theorem test_decode_sneReg : decodeWord 0b1001000100100000#16 = some (.sneReg 1 2) := by decide
theorem test_decode_ldI : decodeWord 0b1010001011110000#16 = some (.ldI 0x2F0#12) := by decide
theorem test_decode_jpV0 : decodeWord 0b1011001100000000#16 = some (.jpV0 0x300#12) := by decide
theorem test_decode_rnd : decodeWord 0b1100001100001111#16 = some (.rnd 3 0x0F#8) := by decide
theorem test_decode_drw : decodeWord 0b1101000100100101#16 = some (.drw 1 2 5) := by decide
theorem test_decode_skp : decodeWord 0b1110010110011110#16 = some (.skp 5) := by decide
theorem test_decode_sknp : decodeWord 0b1110010110100001#16 = some (.sknp 5) := by decide
theorem test_decode_ldVxDt : decodeWord 0b1111001000000111#16 = some (.ldVxDt 2) := by decide
theorem test_decode_ldVxK : decodeWord 0b1111001100001010#16 = some (.ldVxK 3) := by decide
theorem test_decode_ldDtVx : decodeWord 0b1111001000010101#16 = some (.ldDtVx 2) := by decide
theorem test_decode_ldStVx : decodeWord 0b1111001000011000#16 = some (.ldStVx 2) := by decide
theorem test_decode_addI : decodeWord 0b1111000100011110#16 = some (.addI 1) := by decide
theorem test_decode_ldF : decodeWord 0b1111010000101001#16 = some (.ldF 4) := by decide
theorem test_decode_ldB : decodeWord 0b1111000000110011#16 = some (.ldB 0) := by decide
theorem test_decode_storeRegs : decodeWord 0b1111001001010101#16 = some (.storeRegs 2) := by decide
theorem test_decode_loadRegs : decodeWord 0b1111001001100101#16 = some (.loadRegs 2) := by decide
/-- The first byte in memory is the high byte of the word (20 R207). -/
theorem test_decode_bytes : decode [0xA2, 0xF0, 0x12] = some (.ldI 0x2F0#12, [0x12]) := by decide
theorem test_decodeTableWord : decodeTableWord 16 0xD125 = some (.drw 1 2 5) := by decide

/-! One step. -/

/-- S0 of 95_test_vectors.md with one word at 0x200. -/
def s0 (w : Nat) : State := State.reset.withFetchWord 16 w

/-- The answer is a next state in which `p` holds. -/
def next (r : Result) (p : State → Bool) : Bool :=
  match r with
  | .next t => p t
  | .fault _ => false
  | .refused _ => false

/-- The state with one byte stored. -/
def byte (s : State) (a : Nat) (b : Byte) : State := s.poke a b

/-- The state with one pixel lit. -/
def lit (s : State) (x y : Nat) : State := s.setFb (s.fb.setPixel y x true)

/-- The keypad with one key down. -/
def key (k : Nibble) : Keypad := Keypad.allUp.set k true

/-- The default configuration without quirk-A. -/
def noA : Configuration := { defaultConfiguration with quirkA := false }

/-- The default configuration without quirk-B. -/
def noB : Configuration := { defaultConfiguration with quirkB := false }

/-- The default configuration with quirk-C. -/
def withC : Configuration := { defaultConfiguration with quirkC := true }

/-- The default configuration without quirk-D. -/
def noD : Configuration := { defaultConfiguration with quirkD := false }

/-- The default configuration without quirk-E. -/
def noE : Configuration := { defaultConfiguration with quirkE := false }

/-- CY1. -/
theorem test_unknown_CY1 :
    next (step (s0 0x0000)) (fun t => t.diags == [⟨.unknownOpcode, 0x200, 0x0000, none⟩] && t.pc == 0x202) = true := by
  decide
/-- CY4. -/
theorem test_fetch_CY4 : next (step (State.reset.setPc 0xFFF))
    (fun t => t.status == .faulted (.outOfBounds 0x1000) && t.pc == 0xFFF) = true := by decide
/-- CY9. -/
theorem test_faulted_CY9 : step (State.reset.raise (.stackUnderflow 0x200)) = .fault (.runFaulted (.stackUnderflow 0x200)) :=
  rfl

/-- CF1. -/
theorem test_ret_CF1 : next (step ((s0 0x00EE).setStack [0x204])) (fun t => t.pc == 0x204 && t.stack == []) = true := by
  decide
/-- CF2. -/
theorem test_ret_CF2 : next (step (s0 0x00EE))
    (fun t => t.status == .faulted (.stackUnderflow 0x200) && t.pc == 0x202) = true := by decide
/-- CF3. -/
theorem test_jp_CF3 : next (step (s0 0x1234)) (fun t => t.pc == 0x234) = true := by decide
/-- CF7. -/
theorem test_call_CF7 : next (step (s0 0x2300)) (fun t => t.stack == [0x202] && t.pc == 0x300) = true := by decide
/-- CF8. -/
theorem test_call_CF8 : next (step ((s0 0x2300).setStack (List.replicate 16 0x202)))
    (fun t => t.status == .faulted (.stackOverflow 0x200) && t.stack.length == 16) = true := by decide
/-- CF10, CF11. -/
theorem test_seImm_CF10 : next (step ((s0 0x3342).setV 3 0x42)) (fun t => t.pc == 0x204) = true := by decide
theorem test_seImm_CF11 : next (step ((s0 0x3342).setV 3 0x41)) (fun t => t.pc == 0x202) = true := by decide
/-- CF12, CF13. -/
theorem test_sneImm_CF12 : next (step ((s0 0x4342).setV 3 0x41)) (fun t => t.pc == 0x204) = true := by decide
theorem test_sneImm_CF13 : next (step ((s0 0x4342).setV 3 0x42)) (fun t => t.pc == 0x202) = true := by decide
/-- CF14, CF15. -/
theorem test_seReg_CF14 : next (step (((s0 0x5120).setV 1 7).setV 2 7)) (fun t => t.pc == 0x204) = true := by decide
theorem test_seReg_CF15 : next (step (((s0 0x5120).setV 1 7).setV 2 8)) (fun t => t.pc == 0x202) = true := by decide
/-- CF18, CF19. -/
theorem test_sneReg_CF18 : next (step (((s0 0x9120).setV 1 7).setV 2 8)) (fun t => t.pc == 0x204) = true := by decide
theorem test_sneReg_CF19 : next (step (((s0 0x9120).setV 1 7).setV 2 7)) (fun t => t.pc == 0x202) = true := by decide
/-- CF21. -/
theorem test_jpV0_CF21_on : next (step (((s0 0xB300).setV 0 4).setV 3 9)) (fun t => t.pc == 0x304) = true := by decide
theorem test_jpV0_CF21_off : next (step ((((s0 0xB300).setV 0 4).setV 3 9).configure noB)) (fun t => t.pc == 0x309) = true := by
  decide

/-- AL1. -/
theorem test_ldImm_AL1 : next (step (s0 0x6A2B)) (fun t => t.getV 10 == 0x2B) = true := by decide
/-- AL2. -/
theorem test_addImm_AL2 : next (step (((s0 0x7120).setV 1 0xF0).setV 15 0x55))
    (fun t => t.getV 1 == 0x10 && t.getV 15 == 0x55) = true := by decide
/-- AL5. -/
theorem test_ldReg_AL5 : next (step ((s0 0x8120).setV 2 0x99)) (fun t => t.getV 1 == 0x99) = true := by decide
/-- AL6. -/
theorem test_orReg_AL6 : next (step ((((s0 0x8121).setV 1 0x0F).setV 2 0xF0).setV 15 0x77))
    (fun t => t.getV 1 == 0xFF && t.getV 15 == 0x77) = true := by decide
/-- AL7. -/
theorem test_andReg_AL7 : next (step (((s0 0x8122).setV 1 0x3C).setV 2 0x0F)) (fun t => t.getV 1 == 0x0C) = true := by decide
/-- AL8. -/
theorem test_xorReg_AL8 : next (step (((s0 0x8123).setV 1 0x3C).setV 2 0x0F)) (fun t => t.getV 1 == 0x33) = true := by decide
/-- L1-2, AL11. -/
theorem test_addReg_L1_2 : next (step (((s0 0x8124).setV 1 0xC8).setV 2 0x64))
    (fun t => t.getV 1 == 0x2C && t.getV 15 == 1) = true := by decide
theorem test_addReg_AL11 : next (step (((s0 0x8F14).setV 15 0x10).setV 1 0xF0)) (fun t => t.getV 15 == 1) = true := by decide
/-- L1-3, AL14. -/
theorem test_subReg_L1_3 : next (step (((s0 0x8125).setV 1 5).setV 2 5))
    (fun t => t.getV 1 == 0 && t.getV 15 == 1) = true := by decide
theorem test_subReg_AL14 : next (step (((s0 0x8F15).setV 15 3).setV 1 5)) (fun t => t.getV 15 == 0) = true := by decide
/-- AL15, AL16. -/
theorem test_subnReg_AL15 : next (step (((s0 0x8127).setV 1 5).setV 2 7))
    (fun t => t.getV 1 == 2 && t.getV 15 == 1) = true := by decide
theorem test_subnReg_AL16 : next (step (((s0 0x8127).setV 1 7).setV 2 5))
    (fun t => t.getV 1 == 0xFE && t.getV 15 == 0) = true := by decide
/-- L1-8: quirk-A on and off. -/
theorem test_shr_L1_8_on : next (step (((s0 0x8126).setV 1 5).setV 2 10))
    (fun t => t.getV 1 == 5 && t.getV 15 == 0) = true := by decide
theorem test_shr_L1_8_off : next (step ((((s0 0x8126).setV 1 5).setV 2 10).configure noA))
    (fun t => t.getV 1 == 2 && t.getV 15 == 1) = true := by decide
/-- AL22, AL24. -/
theorem test_shl_AL22 : next (step ((s0 0x812E).setV 2 0x81)) (fun t => t.getV 1 == 2 && t.getV 15 == 1) = true := by decide
theorem test_shl_AL24 : next (step (((s0 0x8F2E).setV 15 0x80).configure noA)) (fun t => t.getV 15 == 2) = true := by decide
/-- AL28, AL29. -/
theorem test_rnd_AL28 : (loadRandom 0xA7 3 0x0F State.reset).getV 3 = 0x07 := by decide
theorem test_rnd_AL29 : (loadRandom 0xA7 3 0x00 State.reset).getV 3 = 0x00 := by decide

/-- IM1. -/
theorem test_ldI_IM1 : next (step (s0 0xA2F0)) (fun t => t.index == 0x2F0) = true := by decide
/-- IM2: quirk-C off and on. -/
theorem test_addI_IM2_off : next (step ((((s0 0xF11E).setIndex 0xFFE).setV 1 3).setV 15 0x55))
    (fun t => t.index == 0x1001 && t.getV 15 == 0x55) = true := by decide
theorem test_addI_IM4_on : next (step (((((s0 0xF11E).setIndex 0xFFD).setV 1 3).setV 15 0x55).configure withC))
    (fun t => t.index == 0x1000 && t.getV 15 == 1) = true := by decide
/-- IM7, IM8. -/
theorem test_ldF_IM7 : next (step ((s0 0xF429).setV 4 0x0F)) (fun t => t.index == 0x09B) = true := by decide
theorem test_ldF_IM8 : next (step (((s0 0xF429).setV 4 0x1A).setIndex 0x123))
    (fun t => t.index == 0x123 && t.diags == [⟨.invalidDigit, 0x200, 0xF429, some 0x1A⟩]) = true := by decide
/-- IM9, IM10. -/
theorem test_ldB_IM9 : next (step (((s0 0xF033).setV 0 254).setIndex 0x300))
    (fun t => t.byteAt 0x300 == 2 && t.byteAt 0x301 == 5 && t.byteAt 0x302 == 4) = true := by decide
theorem test_ldB_IM10 : next (step (((s0 0xF033).setV 0 123).setIndex 0xFFE))
    (fun t => t.byteAt 0xFFE == 1 && t.byteAt 0xFFF == 2 && t.status == .faulted (.outOfBounds 0x1000)) = true := by decide
/-- IM11. -/
theorem test_storeRegs_IM11 : next (step (((((s0 0xF255).setV 0 1).setV 1 2).setV 2 3).setIndex 0x300))
    (fun t => t.byteAt 0x302 == 3 && t.index == 0x303) = true := by decide
/-- IM13. -/
theorem test_storeRegs_IM13 : next (step (((s0 0xFF55).setV 7 7).setIndex 0xFF8))
    (fun t => t.byteAt 0xFFF == 7 && t.status == .faulted (.outOfBounds 0x1000) && t.index == 0xFF8) = true := by decide
/-- IM15 with quirk-D off. -/
theorem test_loadRegs_IM15 : next (step ((byte ((s0 0xF265).setIndex 0x300) 0x302 4).configure noD))
    (fun t => t.getV 2 == 4 && t.index == 0x300) = true := by decide
/-- IM17. -/
theorem test_loadRegs_IM17 : next (step (((byte (s0 0xF165) 0xFFF 0x99).setV 1 0x33).setIndex 0xFFF))
    (fun t => t.getV 0 == 0x99 && t.getV 1 == 0x33 && t.status == .faulted (.outOfBounds 0x1000)) = true := by decide

/-- DS1. -/
theorem test_cls_DS1 : next (step (lit ((s0 0x00E0).setV 15 5) 63 31))
    (fun t => t.fb.pixel 31 63 == false && t.getV 15 == 5) = true := by decide
/-- DS6. -/
theorem test_drw_DS6 : next (step (byte (((s0 0xDF11).setV 15 5).setIndex 0x300) 0x300 0x80))
    (fun t => t.fb.pixel 0 5 && t.getV 15 == 0) = true := by decide
/-- DS7. -/
theorem test_drw_DS7 : next (step (lit (byte ((s0 0xD011).setIndex 0x300) 0x300 0x80) 0 0))
    (fun t => !t.fb.pixel 0 0 && t.getV 15 == 1) = true := by decide

/-- TK1. -/
theorem test_skp_TK1 : next (step (((s0 0xE59E).setV 5 0x0C).poll (key 12))) (fun t => t.pc == 0x204) = true := by decide
/-- TK3. -/
theorem test_skp_TK3 : next (step ((s0 0xE59E).setV 5 0x10))
    (fun t => t.status == .faulted (.keyIndexOutOfRange 0x200 0x10) && t.pc == 0x202) = true := by decide
/-- TK2. -/
theorem test_sknp_TK2_down : next (step (((s0 0xE5A1).setV 5 0x0C).poll (key 12))) (fun t => t.pc == 0x202) = true := by decide
theorem test_sknp_TK2_up : next (step ((s0 0xE5A1).setV 5 0x0C)) (fun t => t.pc == 0x204) = true := by decide
/-- TK4. -/
theorem test_ldVxDt_TK4 : next (step ((s0 0xF207).setDt 0x3C)) (fun t => t.getV 2 == 0x3C) = true := by decide
/-- TK5. -/
theorem test_ldDtVx_TK5 : next (step ((s0 0xF215).setV 2 0x3C)) (fun t => t.dt == 0x3C && t.tick.dt == 0x3B) = true := by decide
/-- TK6, TK7. -/
theorem test_ldStVx_TK6 : next (step ((s0 0xF218).setV 2 5)) (fun t => t.st == 5 && t.tone) = true := by decide
theorem test_ldStVx_TK7 : next (step ((s0 0xF218).setSt 9)) (fun t => t.st == 0 && !t.tone) = true := by decide
/-- TK8. -/
theorem test_tick_TK8 : (State.reset.setSt 1).tick.dt = 0 ∧ (State.reset.setSt 1).tick.st = 0 := by decide
/-- TK9 (its second step), TK10. -/
theorem test_ldVxK_TK9 : next (step (((s0 0xF30A).setLatch .waitingForPress).poll (key 7)))
    (fun t => t.getV 3 == 7 && t.latch == .waitingForRelease 7 && t.pc == 0x200) = true := by decide
theorem test_ldVxK_TK10 : next (step (((s0 0xF30A).poll (key 4)).configure noE))
    (fun t => t.getV 3 == 4 && t.latch == .idle && t.pc == 0x202) = true := by decide

/-! WITNESSES: for each statement with hypotheses, a state and operands that meet them together, each clause at the edge of
its range. -/

theorem witness_EncodeOfDecode : decodeWord 0x00E0 = some .cls := by decide
theorem witness_OpcodeRows : (⟨0xF00F, 0x800E⟩ : Row) ∈ opcodeRows ∧ (⟨0xF00F, 0x800E⟩ : Row).accepts 0x812E = true := by decide
/-- The last address a fetch can start from. -/
theorem witness_StepRuns : ((s0 0x00E0).setPc 0xFFE).status = .running ∧ ((s0 0).setPc 0xFFE).pc.toNat + 1 < 4096 ∧
    decode [(byte (s0 0) 0xFFF 0xE0).byteAt 0xFFE, (byte (s0 0) 0xFFF 0xE0).byteAt 0xFFF] = some (.cls, []) := by decide
theorem witness_UnknownEncoding : (s0 0x8018).status = .running ∧ (s0 0x8018).pc.toNat + 1 < 4096 ∧
    decode [(s0 0x8018).byteAt 0x200, (s0 0x8018).byteAt 0x201] = none := by decide
theorem witness_FetchOutOfBounds : (State.reset.setPc 0xFFF).status = .running ∧ 4096 ≤ (State.reset.setPc 0xFFF).pc.toNat + 1 ∧
    4096 ≤ (State.reset.setPc 0x1000).pc.toNat + 1 := by decide
theorem witness_StepEnabled_faulted : (State.reset.raise (.outOfBounds 4096)).status = .faulted (.outOfBounds 4096) := rfl
theorem witness_ReturnPops : (State.reset.setStack [0x204]).stack = 0x204 :: [] ∧ State.reset.stack = [] := by decide
theorem witness_JumpsSetPc : ((3 : Nibble)).val = (0x3FF : Addr12).toNat / 256 ∧ ((15 : Nibble)).val = (0xFFF : Addr12).toNat / 256 := by
  decide
/-- 15 entries leave room for one more; 16 do not. -/
theorem witness_CallPushes :
    (State.reset.setStack (List.replicate 15 0)).config.stackLimit ≠ some (State.reset.setStack (List.replicate 15 0)).stack.length ∧
    (State.reset.setStack (List.replicate 16 0)).config.stackLimit = some (State.reset.setStack (List.replicate 16 0)).stack.length := by
  decide
/-- L1-6. -/
def callThenRet : State := byte (s0 0x2300) 0x301 0xEE
theorem witness_CallThenReturn : callThenRet.status = .running ∧ callThenRet.nextInstr = some (.call 0x300) ∧
    callThenRet.config.stackLimit ≠ some callThenRet.stack.length ∧ (callThenRet.setPc (zext16 0x300)).nextInstr = some .ret := by
  decide
theorem witness_not_VF : (14 : Nibble) ≠ vf ∧ (15 : Nibble) = vf := by decide
theorem witness_FontGlyph : ((State.reset.setV 4 15).getV 4).toNat ≤ 15 ∧ 15 < ((State.reset.setV 4 16).getV 4).toNat := by decide
theorem witness_DecimalDigits : (State.reset.setIndex 0xFFD).index.toNat + 2 < 4096 := by decide
theorem witness_RegisterBlocks : (State.reset.setIndex 0xFFF).index.toNat + (0 : Nibble).val < 4096 ∧
    (State.reset.setIndex 0xFF0).index.toNat + (15 : Nibble).val < 4096 := by decide
/-- One byte out, two bytes out, and all of them out. -/
theorem witness_StoreBlockFault_ldB : 4096 ≤ (State.reset.setIndex 0xFFE).index.toNat + 2 ∧
    (State.reset.setIndex 0xFFE).index.toNat + 1 < 4096 ∧ (State.reset.setIndex 0xFFF).index.toNat < 4096 ∧
    4096 ≤ (State.reset.setIndex 0x1000).index.toNat + 2 := by decide
theorem witness_BlockFaults : 4096 ≤ (State.reset.setIndex 0xFFF).index.toNat + (1 : Nibble).val ∧
    blockAddr (State.reset.setIndex 0xFFF) + (0 : Nibble).val < 4096 ∧
    4096 ≤ (State.reset.setIndex 0x1000).index.toNat + (0 : Nibble).val := by decide
/-- `x < k` in LoadRegistersBlock. -/
theorem witness_LoadRegistersBlock_above : (0 : Nibble) < 1 ∧ (0 : Nibble) ≤ 0 := by decide
/-- F155 with I pointing at the next word (CY7). -/
def storesOverNext : State := (s0 0xF155).setIndex 0x202
theorem witness_StoredCode : storesOverNext.status = .running ∧ storesOverNext.nextInstr = some (.storeRegs 1) ∧
    1 ≤ (1 : Nibble).val ∧ storesOverNext.index.toNat = storesOverNext.pc.toNat + 2 ∧
    storesOverNext.index.toNat + (1 : Nibble).val < 4096 := by decide
theorem witness_CanonicalMemory : Memory.wf (Memory.write [] 0x300 7) = true ∧
    Memory.wf (Memory.write (Memory.write [] 0x300 9) 0x300 7) = true ∧
    ∀ a, a < 4096 → (Memory.write [] 0x300 7).read a = (Memory.write (Memory.write [] 0x300 9) 0x300 7).read a :=
  ⟨by decide, by decide, fun a _ => by rw [show Memory.write [] 0x300 7 = Memory.write (Memory.write [] 0x300 9) 0x300 7 by decide]⟩
/-- n = 0 with I anywhere, and the last byte of memory as the last sprite byte. -/
theorem witness_DrawFlips : ((0 : Nibble).val = 0 ∨ (State.reset.setIndex 0xFFFF).index.toNat + (0 : Nibble).val ≤ 4096) ∧
    ((15 : Nibble).val = 0 ∨ (State.reset.setIndex 0xFF1).index.toNat + (15 : Nibble).val ≤ 4096) := by decide
theorem witness_DrawFault : 0 < (2 : Nibble).val ∧ 4096 < (State.reset.setIndex 0xFFF).index.toNat + (2 : Nibble).val := by decide
/-- Instance A of L1-4. -/
theorem witness_DrawingTwice : ∃ t, exec (.drw 0 1 1) (byte (State.reset.setIndex 0x300) 0x300 0xC0) = .next t ∧
    (State.reset.setIndex 0x300).index.toNat + (1 : Nibble).val ≤ 4096 ∧
    anchorColumn t 0 = anchorColumn (State.reset.setIndex 0x300) 0 ∧ anchorRow t 1 = anchorRow (State.reset.setIndex 0x300) 1 :=
  ⟨_, rfl, by decide, by decide, by decide⟩
/-- L1-5. -/
theorem witness_CornerSprite : 0 < (8 : Nibble).val ∧ (State.reset.setIndex 0x300).index.toNat + (8 : Nibble).val ≤ 4096 ∧
    (((State.reset.setV 0 63).setV 1 31).getV 0).toNat % 64 = 63 ∧ (((State.reset.setV 0 63).setV 1 31).getV 1).toNat % 32 = 31 := by
  decide
theorem witness_KeySkips : ((State.reset.setV 5 15).getV 5).toNat = (15 : Nibble).val ∧ 15 < ((State.reset.setV 5 16).getV 5).toNat := by
  decide
theorem witness_KeyWaitRecords : (State.reset.latch = .idle ∨ State.reset.latch = .waitingForPress) ∧
    (∀ k : Nibble, State.reset.keys[k] = false) ∧ (∃ k : Nibble, (State.reset.poll (key 15)).keys[k] = true) := by decide
theorem witness_KeyWaitCompletes : (State.reset.setLatch (.waitingForRelease 7)).latch = .waitingForRelease 7 ∧
    ((State.reset.setLatch (.waitingForRelease 7)).poll (key 7)).keys[(7 : Nibble)] = true ∧
    ((State.reset.setLatch (.waitingForRelease 7)).poll (key 2)).keys[(7 : Nibble)] = false := by decide
theorem witness_KeyWaitHolds : (s0 0xF30A).status = .running ∧ (s0 0xF30A).nextInstr = some (.ldVxK 3) ∧
    (s0 0xF30A).latch = .idle ∧ ∀ k : Nibble, (s0 0xF30A).keys[k] = false := by decide
theorem witness_ControlFlowFrame : (Instr.jp 0x234).family = .controlFlow ∧ ∃ t, exec (.jp 0x234) State.reset = .next t :=
  ⟨rfl, _, rfl⟩
theorem witness_AluFrame : (Instr.addReg 1 2).family = .alu ∧ ∃ t, exec (.addReg 1 2) State.reset = .next t := ⟨rfl, _, rfl⟩
theorem witness_IndexMemoryFrame : (Instr.ldI 0x300).family = .indexMemory ∧ ∃ t, exec (.ldI 0x300) State.reset = .next t :=
  ⟨rfl, _, rfl⟩
theorem witness_DisplayTimerKeypadFrame : (Instr.cls.family = .display ∧ ∃ t, exec .cls State.reset = .next t) ∧
    ((Instr.ldDtVx 2).family = .timerKeypad ∧ ∃ t, exec (.ldDtVx 2) State.reset = .next t) := ⟨⟨rfl, _, rfl⟩, rfl, _, rfl⟩
/-- IM5: FX1E changes VF, which is not its destination. -/
theorem witness_OnlyFlagWriters : ∃ t, exec (.addI 1) (((State.reset.setIndex 0xFFFF).setV 1 1).configure withC) = .next t ∧
    vf ∉ (Instr.addI 1).destinations ∧ t.getV vf ≠ (((State.reset.setIndex 0xFFFF).setV 1 1).configure withC).getV vf :=
  ⟨_, rfl, by decide, by decide⟩
theorem witness_OnlyTheirWriters_index : next (step (s0 0xA2F0)) (fun t => t.index != (s0 0xA2F0).index) = true := by decide
theorem witness_OnlyTheirWriters_byte : next (step ((s0 0xF055).setIndex 0))
    (fun t => t.byteAt 0x300 == 0) = true ∧
    next (step (((s0 0xF055).setIndex 0x300).setV 0 7)) (fun t => t.byteAt 0x300 != (s0 0xF055).byteAt 0x300) = true := by decide
theorem witness_OnlyTheirWriters_pixel : next (step (lit (s0 0x00E0) 0 0))
    (fun t => t.fb.pixel 0 0 != (lit (s0 0x00E0) 0 0).fb.pixel 0 0) = true := by decide
theorem witness_OnlyTheirWriters_stack : next (step (s0 0x2300)) (fun t => t.stack != (s0 0x2300).stack) = true := by decide
theorem witness_OnlyTheirWriters_latch : next (step (s0 0xF30A)) (fun t => t.latch != (s0 0xF30A).latch) = true := by decide
theorem witness_StepsNeverTick : next (step ((s0 0xF215).setV 2 1)) (fun t => t.dt != 0) = true ∧
    next (step ((s0 0xF218).setV 2 1)) (fun t => t.st != 0) = true := by decide
theorem witness_Diagnostics : ∃ t, step (s0 0x0000) = .next t := ⟨_, rfl⟩
theorem witness_KeypadUse : (∀ x, Instr.cls ≠ .skp x ∧ Instr.cls ≠ .sknp x ∧ Instr.cls ≠ .ldVxK x) ∧
    ∃ t, exec .cls State.reset = .next t := ⟨fun _ => ⟨nofun, nofun, nofun⟩, _, rfl⟩
theorem witness_RandomnessUse : (∀ x nn, Instr.cls ≠ .rnd x nn) ∧ (∀ x, Instr.cls ≠ .ldVxK x) ∧
    ∃ t, exec .cls State.reset = .next t := ⟨fun _ _ => nofun, fun _ => nofun, _, rfl⟩
/-- CF4. -/
theorem witness_Parked : Parked (s0 0x1200) := ⟨rfl, 0x200, by decide, by decide⟩
theorem witness_LoadConstructs : (List.replicate 80 (0 : Byte)).length = 80 ∧ (List.replicate 3584 (0 : Byte)).length ≤ 3584 := by
  simp only [List.length_replicate]; decide
theorem witness_LoadRefuses : 3584 < (List.replicate 3585 (0 : Byte)).length ∧ (List.replicate 79 (0 : Byte)).length ≠ 80 ∧
    (List.replicate 3584 (0 : Byte)).length ≤ 3584 := by
  simp only [List.length_replicate]; decide
theorem witness_ResetStateValues : (0x04F < 0x050 ∨ 0x0A0 ≤ 0x04F) ∧ 15 < 16 ∧ 4 < 5 := by decide
/-- A state that meets the invariant with a pending return address and a waiting FX0A. -/
def waitingState : State := ((s0 0xF30A).setStack [0x1000]).setLatch (.waitingForRelease 7)
theorem witness_Inv_depth : ∀ n, waitingState.config.stackLimit = some n → waitingState.stack.length ≤ n := by
  intro n h
  have e : n = 16 := by
    have : waitingState.config.stackLimit = some 16 := rfl
    rw [this] at h; exact (Option.some.inj h).symm
  subst e; decide
theorem witness_Inv_returns : ∀ w ∈ waitingState.stack, w.toNat ≤ 0x1000 := by
  intro w h
  cases h with
  | head => decide
  | tail _ h => cases h
theorem witness_Invariant : Inv waitingState :=
  ⟨by decide, by decide, witness_Inv_returns, witness_Inv_depth, by decide, fun _ => ⟨rfl, 3, by decide⟩, fun _ _ => rfl⟩
theorem witness_Invariant_step : ∃ t, step waitingState = .next t := ⟨_, rfl⟩

end Sys2Proof.Tests
end

/-!
# What every instruction leaves unchanged

The frame `Instr.writes` of Safety.lean holds of every arm of `exec` (`exec_unchanged`), and an instruction that stores
nothing leaves the memory itself (`exec_mem`). Both rest on one inversion lemma per meaning that branches.
-/

namespace Sys2Proof.Machine

/-! ## A frame is kept by every update of a piece the frame admits -/

namespace Unchanged

variable {w : Writes} {s t : State}

theorem thenSetV (h : Unchanged w s t) {x : Nibble} (hx : x ∈ w.regs) (b : Byte) : Unchanged w s (t.setV x b) :=
  { h with
    regs := fun k hk => by
      have hkx : k ≠ x := fun e => hk (e ▸ hx)
      rw [State.getV_setV_ne t b hkx, h.regs k hk] }

theorem thenSetFlag (h : Unchanged w s t) (hx : vf ∈ w.regs) (b : Byte) : Unchanged w s (t.setFlag b) :=
  h.thenSetV hx b

theorem thenSetIndex (h : Unchanged w s t) (hw : w.index = true) (i : Word) : Unchanged w s (t.setIndex i) :=
  { h with index := by simp [hw] }

theorem thenSetPc (h : Unchanged w s t) (hw : w.pc = true) (p : Word) : Unchanged w s (t.setPc p) :=
  { h with pc := by simp [hw] }

theorem thenStay (h : Unchanged w s t) (hw : w.pc = true) : Unchanged w s t.stay := h.thenSetPc hw _

theorem thenSetDt (h : Unchanged w s t) (hw : w.dt = true) (b : Byte) : Unchanged w s (t.setDt b) :=
  { h with dt := by simp [hw] }

theorem thenSetSt (h : Unchanged w s t) (hw : w.st = true) (b : Byte) : Unchanged w s (t.setSt b) :=
  { h with st := by simp [hw] }

theorem thenSetLatch (h : Unchanged w s t) (hw : w.latch = true) (l : Latch) : Unchanged w s (t.setLatch l) :=
  { h with latch := by simp [hw] }

theorem thenSetFb (h : Unchanged w s t) (hw : w.fb = true) (f : Framebuffer) : Unchanged w s (t.setFb f) :=
  { h with fb := by simp [hw] }

theorem thenSetStack (h : Unchanged w s t) (hw : w.stack = true) (l : List Word) : Unchanged w s (t.setStack l) :=
  { h with stack := by simp [hw] }

theorem thenRaise (h : Unchanged w s t) (hw : w.status = true) (f : FatalFault) : Unchanged w s (t.raise f) :=
  { h with status := by simp [hw] }

theorem thenDiag (h : Unchanged w s t) (hw : w.diags = true) (d : Diag) : Unchanged w s (t.diag d) :=
  { h with diags := by simp [hw] }

theorem thenUseDraw (h : Unchanged w s t) (hw : w.draws = true) : Unchanged w s t.useDraw :=
  { h with draws := by simp [hw] }

theorem thenSkipIf (h : Unchanged w s t) (hw : w.pc = true) (c : Bool) : Unchanged w s (t.skipIf c) := by
  cases c with
  | false => exact h
  | true => exact h.thenSetPc hw _

theorem thenShiftSource (h : Unchanged w s t) {x : Nibble} (hx : x ∈ w.regs) (y : Nibble) :
    Unchanged w s (shiftSource t x y) := by
  unfold shiftSource
  split
  · exact h.thenSetV hx _
  · exact h

theorem thenIncrementIndex (h : Unchanged w s t) (hw : s.config.quirkD = true → w.index = true) (x : Nibble) :
    Unchanged w s (incrementIndex x t) := by
  unfold incrementIndex
  split
  · next hq => exact h.thenSetIndex (hw (h.config ▸ hq)) _
  · exact h

end Unchanged

/-! ## What each branching meaning can do -/

/-- RET pops the newest entry into `pc`, or takes StackUnderflow (41 R501). -/
theorem execRet_cases {s t : State} (h : execRet s = .next t) :
    (s.stack = [] ∧ t = s.raise (.stackUnderflow s.instrAddr)) ∨
    (∃ w rest, s.stack = w :: rest ∧ t = (s.setStack rest).setPc w) := by
  unfold execRet State.pop at h
  cases hs : s.stack with
  | nil => rw [hs] at h; cases h; exact .inl ⟨rfl, rfl⟩
  | cons w rest => rw [hs] at h; cases h; exact .inr ⟨w, rest, rfl, rfl⟩

/-- CALL pushes the advanced `pc` and jumps, or takes StackOverflow (41 R503). -/
theorem execCall_cases {nnn : Addr12} {s t : State} (h : execCall nnn s = .next t) :
    (s.config.stackLimit = some s.stack.length ∧ t = s.raise (.stackOverflow s.instrAddr)) ∨
    (s.config.stackLimit ≠ some s.stack.length ∧ t = (s.push s.pc).setPc (zext16 nnn)) := by
  unfold execCall State.stackFull at h
  split at h
  · next hf => cases h; exact .inl ⟨of_decide_eq_true hf, rfl⟩
  · next hf => cases h; exact .inr ⟨fun e => hf (decide_eq_true e), rfl⟩

/-- DXYN draws the bytes it read, or takes the fault of a read (44 R803). -/
theorem execDrw_cases {x y n : Nibble} {s t : State} (h : execDrw x y n s = .next t) :
    (∃ f, t = s.raise f) ∨ (∃ rows, t = drawSprite rows x y s) := by
  unfold execDrw at h
  split at h
  · cases h; exact .inl ⟨_, rfl⟩
  · cases h; exact .inr ⟨_, rfl⟩

/-- EX9E and EXA1 skip or not, or take KeyIndexOutOfRange (45 R901, R902). -/
theorem skipOnKey_cases (down : Bool) (x : Nibble) (s : State) :
    (∃ f, skipOnKey down x s = s.raise f) ∨ (∃ c, skipOnKey down x s = s.skipIf c) := by
  unfold skipOnKey
  split
  · exact .inl ⟨_, rfl⟩
  · exact .inr ⟨_, rfl⟩

/-- FX1E adds to `I`, and writes VF only under quirk-C and only to 1 (43 R702). -/
theorem execAddI_cases {x : Nibble} {s t : State} (h : execAddI x s = .next t) :
    (∃ i, t = s.setIndex i) ∨ (s.config.quirkC = true ∧ ∃ i, t = (s.setIndex i).setFlag 1) := by
  unfold execAddI at h
  cases h
  split
  · next hc => exact .inr ⟨(Bool.and_eq_true_iff.mp hc).1, _, rfl⟩
  · exact .inl ⟨_, rfl⟩

/-- FX29 writes `I`, or records InvalidDigit (43 R703). -/
theorem execLdF_cases {x : Nibble} {s t : State} (h : execLdF x s = .next t) :
    (∃ i, t = s.setIndex i) ∨ (∃ d, t = s.diag d) := by
  unfold execLdF at h
  cases h
  split
  · exact .inl ⟨_, rfl⟩
  · exact .inr ⟨_, rfl⟩

/-- FX0A before a press: wait, or record a key that is down and, under quirk-E, wait for its release (45 R906). -/
theorem awaitPress_cases (x : Nibble) (s : State) :
    awaitPress x s = (s.setLatch .waitingForPress).stay ∨
    (∃ k, s.config.quirkE = true ∧
      awaitPress x s = (((s.setV x (keyByte k)).useDraw).setLatch (.waitingForRelease k)).stay) ∨
    (∃ k, awaitPress x s = ((s.setV x (keyByte k)).useDraw).setLatch .idle) := by
  unfold awaitPress
  split
  · exact .inl rfl
  · next k _ =>
    by_cases hq : s.config.quirkE = true
    · exact .inr (.inl ⟨k, hq, if_pos hq⟩)
    · exact .inr (.inr ⟨k, if_neg hq⟩)

/-- FX0A: what it does before a press, or, when it waits for a release, stay or become Idle (45 R906, R907). -/
theorem execLdVxK_cases {x : Nibble} {s t : State} (h : execLdVxK x s = .next t) :
    t = awaitPress x s ∨ (∃ k, s.latch = .waitingForRelease k ∧ (t = s.stay ∨ t = s.setLatch .idle)) := by
  unfold execLdVxK at h
  split at h
  · cases h; exact .inl rfl
  · cases h; exact .inl rfl
  · next k hl =>
    cases h
    refine .inr ⟨k, hl, ?_⟩
    unfold awaitRelease
    split
    · exact .inl rfl
    · exact .inr rfl

/-! ## The block accesses (43 R704 to R706) -/

/-- The state after the bytes of a block that lie in memory have been stored from `a` upward (20 R209). -/
def State.storeFitting (s : State) (a : Nat) (bs : List Byte) : State :=
  s.setMem (s.mem.writeList a (bs.take (Config.memSize - a)))

/-- Every attempt to store a block stores the bytes that fit; it ends there, or with a fault (20 R209, 40 R409). -/
theorem State.storeBytes_cases (bs : List Byte) (a : Nat) (s : State) :
    State.storeBytes bs a s = .done (s.storeFitting a bs) ∨
    (∃ f, State.storeBytes bs a s = .raised f (s.storeFitting a bs)) := by
  by_cases hn : bs = []
  · subst hn; exact .inl (by rw [State.storeFitting, List.take_nil]; rfl)
  · by_cases hl : a + bs.length ≤ Config.memSize
    · have hall : bs.take (Config.memSize - a) = bs := List.take_of_length_le (by omega)
      exact .inl (by rw [State.storeBytes_done bs a s hl, State.storeFitting, hall])
    · exact .inr ⟨_, State.storeBytes_raised bs a s hn (Nat.lt_of_not_le hl)⟩

theorem State.storeFitting_unchanged (s : State) (a : Nat) (bs : List Byte) {n : Nat} (hn : bs.length ≤ n) :
    Unchanged { storeAt := a, storeLen := n } s (s.storeFitting a bs) :=
  Unchanged.writeList s a _ ((List.length_take_le' _ _).trans hn)

/-- Storing the bytes that fit keeps the canonical form. -/
theorem State.storeFitting_wf {s : State} (h : s.mem.wf = true) (a : Nat) (bs : List Byte) :
    (s.storeFitting a bs).mem.wf = true := by
  by_cases ha : a ≤ Config.memSize
  · have hl := List.length_take_le (Config.memSize - a) bs
    exact Memory.wf_writeList _ (by omega) h
  · have hz : Config.memSize - a = 0 := by omega
    simpa [State.storeFitting, hz, Memory.writeList] using h

/-- FX33 stores what fits of its digits, and faults or not. -/
theorem execLdB_cases {x : Nibble} {s t : State} (h : execLdB x s = .next t) :
    t = s.storeFitting (blockAddr s) (decimalDigits (s.getV x)) ∨
    (∃ f, t = (s.storeFitting (blockAddr s) (decimalDigits (s.getV x))).raise f) := by
  unfold execLdB at h
  rcases State.storeBytes_cases (decimalDigits (s.getV x)) (blockAddr s) s with e | ⟨f, e⟩
  · rw [e] at h; cases h; exact .inl rfl
  · rw [e] at h; cases h; exact .inr ⟨f, rfl⟩

/-- FX55 stores what fits of the registers, and then increments `I` under quirk-D or faults. -/
theorem execStoreRegs_cases {x : Nibble} {s t : State} (h : execStoreRegs x s = .next t) :
    t = incrementIndex x (s.storeFitting (blockAddr s) (regBytes s x)) ∨
    (∃ f, t = (s.storeFitting (blockAddr s) (regBytes s x)).raise f) := by
  unfold execStoreRegs at h
  rcases State.storeBytes_cases (regBytes s x) (blockAddr s) s with e | ⟨f, e⟩
  · rw [e] at h; cases h; exact .inl rfl
  · rw [e] at h; cases h; exact .inr ⟨f, rfl⟩

/-- FX65 loads the registers whose bytes lie in memory, and then increments `I` under quirk-D or faults. -/
theorem execLoadRegs_cases {x : Nibble} {s t : State} (h : execLoadRegs x s = .next t) :
    ∃ u, Loaded (regRange x) 0 (blockAddr s) s u ∧ (t = incrementIndex x u ∨ ∃ f, t = u.raise f) := by
  obtain ⟨u, hu, he⟩ := State.loadRegisters_regRange x (blockAddr s) s
  refine ⟨u, hu, ?_⟩
  unfold execLoadRegs at h
  rw [he] at h
  split at h
  · cases h; exact .inl rfl
  · cases h; exact .inr ⟨_, rfl⟩

/-! ## The frame of each branching meaning -/

section

variable {s t : State} {x : Nibble}

theorem execRet_unchanged (h : execRet s = .next t) : Unchanged (Instr.ret.writes s) s t := by
  rcases execRet_cases h with ⟨_, rfl⟩ | ⟨w, rest, _, rfl⟩
  · exact (Unchanged.refl _ s).thenRaise rfl _
  · exact ((Unchanged.refl _ s).thenSetStack rfl rest).thenSetPc rfl w

theorem execCall_unchanged {nnn : Addr12} (h : execCall nnn s = .next t) :
    Unchanged ((Instr.call nnn).writes s) s t := by
  rcases execCall_cases h with ⟨_, rfl⟩ | ⟨_, rfl⟩
  · exact (Unchanged.refl _ s).thenRaise rfl _
  · exact ((Unchanged.refl _ s).thenSetStack rfl _).thenSetPc rfl _

theorem execDrw_unchanged {y n : Nibble} (h : execDrw x y n s = .next t) :
    Unchanged ((Instr.drw x y n).writes s) s t := by
  rcases execDrw_cases h with ⟨f, rfl⟩ | ⟨rows, rfl⟩
  · exact (Unchanged.refl _ s).thenRaise rfl f
  · exact ((Unchanged.refl _ s).thenSetFb rfl _).thenSetFlag (List.mem_singleton_self vf) _

/-- EX9E and EXA1. -/
theorem skipOnKey_unchanged (down : Bool) (x : Nibble) (s : State) :
    Unchanged { pc := true, status := true } s (skipOnKey down x s) := by
  rcases skipOnKey_cases down x s with ⟨f, e⟩ | ⟨c, e⟩
  · rw [e]; exact (Unchanged.refl _ s).thenRaise rfl f
  · rw [e]; exact (Unchanged.refl _ s).thenSkipIf rfl c

theorem execAddI_unchanged (h : execAddI x s = .next t) : Unchanged ((Instr.addI x).writes s) s t := by
  rcases execAddI_cases h with ⟨i, rfl⟩ | ⟨hq, i, rfl⟩
  · exact (Unchanged.refl _ s).thenSetIndex rfl i
  · have hvf : vf ∈ ((Instr.addI x).writes s).regs := by simp [Instr.writes, hq]
    exact ((Unchanged.refl _ s).thenSetIndex rfl i).thenSetFlag hvf 1

theorem execLdF_unchanged (h : execLdF x s = .next t) : Unchanged ((Instr.ldF x).writes s) s t := by
  rcases execLdF_cases h with ⟨i, rfl⟩ | ⟨d, rfl⟩
  · exact (Unchanged.refl _ s).thenSetIndex rfl i
  · exact (Unchanged.refl _ s).thenDiag rfl d

theorem execLdVxK_unchanged (h : execLdVxK x s = .next t) : Unchanged ((Instr.ldVxK x).writes s) s t := by
  have hs := Unchanged.refl ((Instr.ldVxK x).writes s) s
  have hrec := fun b => (hs.thenSetV (List.mem_singleton_self x) b).thenUseDraw rfl
  rcases execLdVxK_cases h with rfl | ⟨k, _, rfl | rfl⟩
  · rcases awaitPress_cases x s with e | ⟨k, _, e⟩ | ⟨k, e⟩ <;> rw [e]
    · exact (hs.thenSetLatch rfl _).thenStay rfl
    · exact ((hrec _).thenSetLatch rfl _).thenStay rfl
    · exact (hrec _).thenSetLatch rfl _
  · exact hs.thenStay rfl
  · exact hs.thenSetLatch rfl _

theorem execLdB_unchanged (h : execLdB x s = .next t) : Unchanged ((Instr.ldB x).writes s) s t := by
  have hst := s.storeFitting_unchanged (blockAddr s) (decimalDigits (s.getV x)) (Nat.le_refl 3)
  have hw : Unchanged ((Instr.ldB x).writes s) s (s.storeFitting (blockAddr s) (decimalDigits (s.getV x))) :=
    { hst with status := fun _ => rfl }
  rcases execLdB_cases h with rfl | ⟨f, rfl⟩
  · exact hw
  · exact hw.thenRaise rfl f

theorem execStoreRegs_unchanged (h : execStoreRegs x s = .next t) :
    Unchanged ((Instr.storeRegs x).writes s) s t := by
  have hst := s.storeFitting_unchanged (blockAddr s) (regBytes s x) (length_regBytes s x).le
  have hw : Unchanged ((Instr.storeRegs x).writes s) s (s.storeFitting (blockAddr s) (regBytes s x)) :=
    { hst with index := fun _ => rfl, status := fun _ => rfl }
  rcases execStoreRegs_cases h with rfl | ⟨f, rfl⟩
  · exact hw.thenIncrementIndex id x
  · exact hw.thenRaise rfl f

theorem execLoadRegs_unchanged (h : execLoadRegs x s = .next t) :
    Unchanged ((Instr.loadRegs x).writes s) s t := by
  obtain ⟨u, hu, ht⟩ := execLoadRegs_cases h
  have hl := hu.unchanged
  have hw : Unchanged ((Instr.loadRegs x).writes s) s u :=
    { hl with index := fun _ => hl.index rfl, status := fun _ => hl.status rfl }
  rcases ht with rfl | ⟨f, rfl⟩
  · exact hw.thenIncrementIndex id x
  · exact hw.thenRaise rfl f

/-- The two shifts: quirk-A's copy, the flag and the shifted value (42 R610, R612). -/
theorem shift_unchanged (s : State) (x y : Nibble) (flag b : Byte) :
    Unchanged (Writes.onlyRegs [x, vf]) s (((shiftSource s x y).setFlag flag).setV x b) :=
  (((Unchanged.refl _ s).thenShiftSource (by simp [Writes.onlyRegs]) y).thenSetFlag
    (by simp [Writes.onlyRegs]) flag).thenSetV (by simp [Writes.onlyRegs]) b

end

/-- EVERY INSTRUCTION KEEPS ITS FRAME: it writes nothing outside `Instr.writes` (40 R410). -/
theorem exec_unchanged {i : Instr} {s t : State} (h : exec i s = .next t) : Unchanged (i.writes s) s t := by
  have hs := Unchanged.refl (i.writes s) s
  cases i with
  | cls => cases h; exact hs.thenSetFb rfl _
  | ret => exact execRet_unchanged h
  | call nnn => exact execCall_unchanged h
  | jp nnn | jpV0 nnn => cases h; exact Unchanged.setPc s _
  | seImm x nn | sneImm x nn | seReg x y | sneReg x y => cases h; exact Unchanged.skipIf s _
  | ldImm x nn | addImm x nn | ldReg x y | orReg x y | andReg x y | xorReg x y | ldVxDt x =>
    cases h; exact Unchanged.setV s x _
  | addReg x y | subReg x y | subnReg x y => cases h; exact Unchanged.setV_setFlag s x _ _
  | shr x y | shl x y => cases h; exact shift_unchanged s x y _ _
  | rnd x nn => cases h; exact (hs.thenUseDraw rfl).thenSetV (List.mem_singleton_self x) _
  | drw x y n => exact execDrw_unchanged h
  | skp x | sknp x => cases h; exact skipOnKey_unchanged _ x s
  | ldVxK x => exact execLdVxK_unchanged h
  | ldDtVx x => cases h; exact hs.thenSetDt rfl _
  | ldStVx x => cases h; exact hs.thenSetSt rfl _
  | ldI nnn => cases h; exact hs.thenSetIndex rfl _
  | addI x => exact execAddI_unchanged h
  | ldF x => exact execLdF_unchanged h
  | ldB x => exact execLdB_unchanged h
  | storeRegs x => exact execStoreRegs_unchanged h
  | loadRegs x => exact execLoadRegs_unchanged h

/-- An instruction whose frame admits no store leaves the memory itself, not only what it reads as. -/
theorem exec_mem {i : Instr} {s t : State} (h : exec i s = .next t) (hw : (i.writes s).storeLen = 0) :
    t.mem = s.mem := by
  cases i with
  | ret => rcases execRet_cases h with ⟨_, rfl⟩ | ⟨w, rest, _, rfl⟩ <;> rfl
  | call nnn => rcases execCall_cases h with ⟨_, rfl⟩ | ⟨_, rfl⟩ <;> rfl
  | seImm x nn | sneImm x nn | seReg x y | sneReg x y => cases h; exact State.skipIf_mem s _
  | shr x y | shl x y => cases h; exact shiftSource_mem s x y
  | drw x y n => rcases execDrw_cases h with ⟨f, rfl⟩ | ⟨rows, rfl⟩ <;> rfl
  | skp x | sknp x =>
    cases h
    rcases skipOnKey_cases _ x s with ⟨f, e⟩ | ⟨c, e⟩ <;> rw [e]
    · exact State.raise_mem s f
    · exact State.skipIf_mem s c
  | ldVxK x =>
    rcases execLdVxK_cases h with rfl | ⟨k, _, rfl | rfl⟩
    · rcases awaitPress_cases x s with e | ⟨k, _, e⟩ | ⟨k, e⟩ <;> rw [e] <;> rfl
    · rfl
    · rfl
  | addI x => rcases execAddI_cases h with ⟨w, rfl⟩ | ⟨_, w, rfl⟩ <;> rfl
  | ldF x => rcases execLdF_cases h with ⟨w, rfl⟩ | ⟨d, rfl⟩ <;> rfl
  | ldB x | storeRegs x => cases hw
  | loadRegs x =>
    obtain ⟨u, hu, ht⟩ := execLoadRegs_cases h
    have hmem : u.mem = s.mem := by rw [hu.rest]
    rcases ht with rfl | ⟨f, rfl⟩
    · rw [incrementIndex_mem, hmem]
    · exact hmem
  | _ => cases h; rfl

end Sys2Proof.Machine

/-!
# The reset state (10 R130, 20 R201)
-/

namespace Sys2Proof.Machine

/-- Outside the 80 bytes of the font the construction value is 0 (20 R201). -/
theorem initialByte_eq_zero {a : Nat} (h : a < 0x050 ∨ 0x0A0 ≤ a) : initialByte a = 0 := by
  unfold initialByte
  split
  · next hb =>
    have hb : 0x050 ≤ a := hb
    exact List.getD_eq_default defaultFont 0 (show 80 ≤ a - 0x050 by omega)
  · rfl

/-- The construction value at offset `k` of the font. -/
theorem initialByte_font (k : Nat) : initialByte (0x050 + k) = defaultFont.getD k 0 := by
  rw [initialByte, if_pos (Nat.le_add_right _ _), Nat.add_sub_cancel_left]

theorem State.reset_getV (k : Nibble) : State.reset.getV k = 0 := Vector.getElem_replicate k.isLt

/-- Settles O56: the fields by their definitions, the pixels by `Framebuffer.pixel_blank`, the bytes by the two lemmas
on `initialByte`. -/
theorem resetStateValues : Obligations.ResetStateValues :=
  ⟨rfl, State.reset_getV, rfl, rfl, rfl, rfl, rfl, rfl, rfl, Framebuffer.pixel_blank,
    fun _ ha => initialByte_eq_zero ha, fun d r _ _ => initialByte_font (5 * d + r)⟩

/-- Settles O59: the empty memory is canonical, the stack is empty and the latch Idle. -/
theorem resetMeetsInvariant : Obligations.ResetMeetsInvariant where
  mem := rfl
  pc := by decide
  returns := fun _ hw => absurd hw List.not_mem_nil
  depth := fun n _ => Nat.zero_le n
  config := rfl
  latch := fun hl => absurd rfl hl
  release := fun _ hl => nomatch hl

end Sys2Proof.Machine

/-!
# What only certain instructions write (10 R101, R104, R106, R110, R113; 43 R700; 44 R800)
-/

namespace Sys2Proof

open Sys2Proof.Machine

/-! ## The instructions whose frame admits a piece of the state -/

namespace Instr

variable {i : Instr} {s : State}

/-- VF is in the frame of no instruction but the flag writers, unless it is a destination (10 R104). -/
theorem flagWriter_of_writes (h : vf ∈ (i.writes s).regs) (hd : vf ∉ i.destinations) :
    (∃ x y, i = .addReg x y ∨ i = .subReg x y ∨ i = .subnReg x y ∨ i = .shr x y ∨ i = .shl x y) ∨
    (∃ x y n, i = .drw x y n) ∨ (∃ x, i = .addI x ∧ s.config.quirkC = true) := by
  cases i with
  | addReg x y => exact .inl ⟨x, y, .inl rfl⟩
  | subReg x y => exact .inl ⟨x, y, .inr (.inl rfl)⟩
  | subnReg x y => exact .inl ⟨x, y, .inr (.inr (.inl rfl))⟩
  | shr x y => exact .inl ⟨x, y, .inr (.inr (.inr (.inl rfl)))⟩
  | shl x y => exact .inl ⟨x, y, .inr (.inr (.inr (.inr rfl)))⟩
  | drw x y n => exact .inr (.inl ⟨x, y, n, rfl⟩)
  | addI x =>
    refine .inr (.inr ⟨x, rfl, ?_⟩)
    by_contra hq
    simp [Instr.writes, hq] at h
  | ldImm x nn | addImm x nn | ldReg x y | orReg x y | andReg x y | xorReg x y | rnd x nn | ldVxDt x | ldVxK x
  | loadRegs x => exact absurd h hd
  | _ => exact absurd h List.not_mem_nil

theorem indexWriter_of_writes (h : (i.writes s).index = true) :
    (∃ nnn, i = .ldI nnn) ∨ (∃ x, i = .addI x ∨ i = .ldF x) ∨
    (s.config.quirkD = true ∧ ∃ x, i = .storeRegs x ∨ i = .loadRegs x) := by
  cases i with
  | ldI nnn => exact .inl ⟨nnn, rfl⟩
  | addI x => exact .inr (.inl ⟨x, .inl rfl⟩)
  | ldF x => exact .inr (.inl ⟨x, .inr rfl⟩)
  | storeRegs x => exact .inr (.inr ⟨h, x, .inl rfl⟩)
  | loadRegs x => exact .inr (.inr ⟨h, x, .inr rfl⟩)
  | _ => cases h

theorem storer_of_writes (h : (i.writes s).storeLen ≠ 0) : ∃ x, i = .ldB x ∨ i = .storeRegs x := by
  cases i with
  | ldB x => exact ⟨x, .inl rfl⟩
  | storeRegs x => exact ⟨x, .inr rfl⟩
  | _ => exact absurd rfl h

theorem fbWriter_of_writes (h : (i.writes s).fb = true) : i = .cls ∨ ∃ x y n, i = .drw x y n := by
  cases i with
  | cls => exact .inl rfl
  | drw x y n => exact .inr ⟨x, y, n, rfl⟩
  | _ => cases h

theorem stackWriter_of_writes (h : (i.writes s).stack = true) : i = .ret ∨ ∃ nnn, i = .call nnn := by
  cases i with
  | ret => exact .inl rfl
  | call nnn => exact .inr ⟨nnn, rfl⟩
  | _ => cases h

theorem latchWriter_of_writes (h : (i.writes s).latch = true) : ∃ x, i = .ldVxK x := by
  cases i with
  | ldVxK x => exact ⟨x, rfl⟩
  | _ => cases h

end Instr

namespace Machine

/-- The frame of a step: that of the instruction fetched, from the state with `pc` advanced, or, when the fetch faults
or the word is unknown, `pc`, the status and the log (40 R403, R407). -/
theorem step_unchanged {s t : State} (h : step s = .next t) :
    (∃ i, s.nextInstr = some i ∧ Unchanged (i.writes s.advance) s.advance t) ∨
    Unchanged { pc := true, status := true, diags := true } s t := by
  have hs := Unchanged.refl { pc := true, status := true, diags := true } s
  obtain ⟨_, ⟨f, _, rfl⟩ | ⟨w, _, _, rfl⟩ | ⟨i, hi, hx⟩⟩ := step_cases h
  · exact .inr (hs.thenRaise rfl f)
  · exact .inr ((hs.thenSetPc rfl _).thenDiag rfl _)
  · exact .inl ⟨i, hi, exec_unchanged hx⟩

/-- A frame that admits no store keeps every byte. -/
theorem Unchanged.byteAt_of_storeLen {w : Writes} {s t : State} (h : Unchanged w s t) (hw : w.storeLen = 0) (a : Nat) :
    t.byteAt a = s.byteAt a := h.bytes a (by omega)

/-- Settles O46, by the instructions whose frame holds VF; FX1E's value is that of `execAddI_cases`. -/
theorem onlyFlagWritersTouchVf : Obligations.OnlyFlagWritersTouchVf := by
  intro i s t hx hd hne
  have hvf : vf ∈ (i.writes s).regs := by
    by_contra hn
    exact hne ((exec_unchanged hx).regs vf hn)
  rcases Instr.flagWriter_of_writes hvf hd with halu | hdrw | ⟨x, rfl, hq⟩
  · exact .inl halu
  · exact .inr (.inl hdrw)
  · refine .inr (.inr ⟨x, rfl, hq, ?_⟩)
    rcases execAddI_cases hx with ⟨w, rfl⟩ | ⟨_, w, rfl⟩
    · exact absurd rfl hne
    · rw [State.getV_setFlag, if_pos rfl]

/-- Settles O47, clause by clause: a piece that changed is in the frame of the instruction fetched, and only its writers
have it there. -/
theorem onlyTheirWritersChangeThem : Obligations.OnlyTheirWritersChangeThem := by
  intro s t h
  rcases step_unchanged h with ⟨i, hi, hu⟩ | hu
  · simp only [hi, Option.some.injEq]
    exact ⟨fun hne => Instr.indexWriter_of_writes (eq_true_of_ne_false fun hw => hne (hu.index hw)),
      fun ⟨a, hne⟩ => Instr.storer_of_writes fun hw => hne (hu.byteAt_of_storeLen hw a),
      fun hne => Instr.fbWriter_of_writes (eq_true_of_ne_false fun hw => hne (hu.fb hw)),
      fun hne => Instr.stackWriter_of_writes (eq_true_of_ne_false fun hw => hne (hu.stack hw)),
      fun hne => Instr.latchWriter_of_writes (eq_true_of_ne_false fun hw => hne (hu.latch hw)), hu.config⟩
  · exact ⟨fun hne => absurd (hu.index rfl) hne, fun ⟨a, hne⟩ => absurd (hu.byteAt_of_storeLen rfl a) hne,
      fun hne => absurd (hu.fb rfl) hne, fun hne => absurd (hu.stack rfl) hne,
      fun hne => absurd (hu.latch rfl) hne, hu.config⟩

end Machine

end Sys2Proof

/-!
# The invariant of the machine (10 R109, R110, R111, R113, R116; 45 R907)

One lemma per clause of `Inv` about an arbitrary instruction, in the state whose `pc` has been advanced; a step is then
assembled from them.
-/

namespace Sys2Proof.Machine

/-! ## Canonical memory -/

theorem exec_mem_wf {i : Instr} {s t : State} (h : exec i s = .next t) (hm : s.mem.wf = true) : t.mem.wf = true := by
  by_cases hw : (i.writes s).storeLen = 0
  · rw [exec_mem h hw]; exact hm
  · have hst := fun bs => State.storeFitting_wf hm (blockAddr s) bs
    obtain ⟨x, rfl | rfl⟩ := Instr.storer_of_writes hw
    · rcases execLdB_cases h with rfl | ⟨f, rfl⟩ <;> exact hst _
    · rcases execStoreRegs_cases h with rfl | ⟨f, rfl⟩
      · rw [incrementIndex_mem]; exact hst _
      · exact hst _

/-! ## The program counter (10 R109) -/

theorem State.skipIf_pc_le (s : State) (c : Bool) : (s.skipIf c).pc.toNat ≤ s.pc.toNat + 2 := by
  cases c with
  | false => exact Nat.le_add_right _ _
  | true => exact (BitVec.toNat_add s.pc 2).trans_le (Nat.mod_le _ _)

theorem offsetTarget_le (s : State) (nnn : Addr12) : (offsetTarget s nnn).toNat ≤ 0x10FE := by
  have hn := nnn.isLt
  have hv := (s.getV (offsetReg s nnn)).isLt
  rw [offsetTarget, BitVec.toNat_add, toNat_zext16, BitVec.toNat_setWidth]
  omega

theorem zext16_le (nnn : Addr12) : (zext16 nnn).toNat ≤ 0x10FE := by
  have hn := nnn.isLt
  rw [toNat_zext16]
  omega

/-- FX0A goes on with the latch Idle, or stays at its own address; it waits for a release only under quirk-E or when it
already did (45 R906, R907). -/
theorem execLdVxK_pc_latch {x : Nibble} {s t : State} (h : execLdVxK x s = .next t) :
    (t.pc = s.pc ∧ t.latch = .idle) ∨
    (t.pc = s.pc - 2 ∧
      ∀ k, t.latch = .waitingForRelease k → s.config.quirkE = true ∨ s.latch = .waitingForRelease k) := by
  rcases execLdVxK_cases h with rfl | ⟨k, hl, rfl | rfl⟩
  · rcases awaitPress_cases x s with e | ⟨k, hq, e⟩ | ⟨k, e⟩ <;> rw [e]
    · exact .inr ⟨rfl, fun _ hk => nomatch hk⟩
    · exact .inr ⟨rfl, fun _ _ => .inl hq⟩
    · exact .inl ⟨rfl, rfl⟩
  · exact .inr ⟨rfl, fun _ hk => .inr hk⟩
  · exact .inl ⟨rfl, rfl⟩

/-- Where an instruction can leave `pc`: advanced, skipping, at a jump target, at a return address, or staying. -/
theorem exec_pc_le {i : Instr} {s t : State} (h : exec i s = .next t) (hlo : 2 ≤ s.pc.toNat)
    (hhi : s.pc.toNat ≤ 0x1000) (hret : ∀ w ∈ s.stack, w.toNat ≤ 0x1000) : t.pc.toNat ≤ 0x10FE := by
  have hkeep : s.pc.toNat ≤ 0x10FE := by omega
  have hskip : ∀ c, (s.skipIf c).pc.toNat ≤ 0x10FE := fun c => by
    have := s.skipIf_pc_le c
    omega
  cases i with
  | jp nnn => cases h; exact zext16_le nnn
  | jpV0 nnn => cases h; exact offsetTarget_le s nnn
  | call nnn =>
    rcases execCall_cases h with ⟨_, rfl⟩ | ⟨_, rfl⟩
    · exact hkeep
    · exact zext16_le nnn
  | ret =>
    rcases execRet_cases h with ⟨_, rfl⟩ | ⟨w, rest, hs, rfl⟩
    · exact hkeep
    · have hw : w.toNat ≤ 0x1000 := hret w (hs ▸ List.mem_cons_self)
      exact hw.trans (by decide)
  | seImm x nn | sneImm x nn | seReg x y | sneReg x y => cases h; exact hskip _
  | skp x | sknp x =>
    cases h
    rcases skipOnKey_cases _ x s with ⟨f, e⟩ | ⟨c, e⟩ <;> rw [e]
    · exact hkeep
    · exact hskip c
  | ldVxK x =>
    rcases execLdVxK_pc_latch h with ⟨hp, _⟩ | ⟨hp, _⟩ <;> rw [hp]
    · exact hkeep
    · have hsub : (s.pc - 2).toNat = s.pc.toNat - 2 := BitVec.toNat_sub_of_le hlo
      omega
  | _ => rw [(exec_unchanged h).pc rfl]; exact hkeep

/-! ## The call stack (10 R110, R111) -/

theorem exec_returns {i : Instr} {s t : State} (h : exec i s = .next t) (hpc : s.pc.toNat ≤ 0x1000)
    (hret : ∀ w ∈ s.stack, w.toNat ≤ 0x1000) : ∀ w ∈ t.stack, w.toNat ≤ 0x1000 := by
  by_cases hw : (i.writes s).stack = true
  · rcases Instr.stackWriter_of_writes hw with rfl | ⟨nnn, rfl⟩
    · rcases execRet_cases h with ⟨_, rfl⟩ | ⟨w, rest, hs, rfl⟩
      · exact hret
      · exact fun v hv => hret v (hs ▸ List.mem_cons_of_mem w hv)
    · rcases execCall_cases h with ⟨_, rfl⟩ | ⟨_, rfl⟩
      · exact hret
      · exact List.forall_mem_cons.mpr ⟨hpc, hret⟩
  · rw [(exec_unchanged h).stack (Bool.eq_false_of_not_eq_true hw)]; exact hret

theorem exec_depth {i : Instr} {s t : State} (h : exec i s = .next t)
    (hd : ∀ n, s.config.stackLimit = some n → s.stack.length ≤ n) :
    ∀ n, t.config.stackLimit = some n → t.stack.length ≤ n := by
  rw [(exec_unchanged h).config]
  intro n hn
  by_cases hw : (i.writes s).stack = true
  · rcases Instr.stackWriter_of_writes hw with rfl | ⟨nnn, rfl⟩
    · rcases execRet_cases h with ⟨_, rfl⟩ | ⟨w, rest, hs, rfl⟩
      · exact hd n hn
      · have := hd n hn
        rw [hs] at this
        exact Nat.le_of_succ_le this
    · rcases execCall_cases h with ⟨_, rfl⟩ | ⟨hroom, rfl⟩
      · exact hd n hn
      · have hne : s.stack.length ≠ n := fun e => hroom (e ▸ hn)
        exact Nat.lt_of_le_of_ne (hd n hn) hne
  · rw [(exec_unchanged h).stack (Bool.eq_false_of_not_eq_true hw)]; exact hd n hn

/-! ## The keypad-wait latch (10 R113, 45 R907) -/

/-- The latch is Idle when the next instruction is no FX0A. -/
theorem Inv.latch_idle {s : State} (hs : Inv s) (hn : ∀ x, s.nextInstr ≠ some (.ldVxK x)) : s.latch = .idle := by
  by_contra hl
  obtain ⟨_, x, hx⟩ := hs.latch hl
  exact hn x hx

theorem State.nextInstr_of_fetch_error {s : State} {f : FatalFault} (h : s.fetch = .error f) : s.nextInstr = none := by
  rw [State.nextInstr, h]

theorem State.nextInstr_of_fetch_ok {s : State} {w : Word} (h : s.fetch = .ok w) : s.nextInstr = decodeWord w := by
  rw [State.nextInstr, h]

/-- An instruction leaves the latch Idle, or it is an FX0A that stays: the run goes on at the same instruction. -/
theorem Inv.exec_latch {i : Instr} {s t : State} (hs : Inv s) (hr : s.status = .running) (hi : s.nextInstr = some i)
    (h : exec i s.advance = .next t) :
    t.latch = .idle ∨
    (t.status = .running ∧ (∃ x, t.nextInstr = some (.ldVxK x)) ∧
      ∀ k, t.latch = .waitingForRelease k → s.config.quirkE = true) := by
  have hu := exec_unchanged h
  by_cases hw : (i.writes s.advance).latch = true
  · obtain ⟨x, rfl⟩ := Instr.latchWriter_of_writes hw
    rcases execLdVxK_pc_latch h with ⟨_, hl⟩ | ⟨hp, hrel⟩
    · exact .inl hl
    · have hpc : t.pc = s.pc := hp.trans (BitVec.add_sub_cancel s.pc 2)
      have hmem : t.mem = s.mem := (exec_mem h rfl).trans s.advance_mem
      exact .inr ⟨(hu.status rfl).trans hr, ⟨x, (State.nextInstr_congr hpc hmem).trans hi⟩,
        fun k hk => (hrel k hk).elim id (hs.release k)⟩
  · have hidle : s.latch = .idle := hs.latch_idle fun x hx => by
      rw [hi] at hx
      cases hx
      exact hw rfl
    exact .inl ((hu.latch (Bool.eq_false_of_not_eq_true hw)).trans hidle)

/-! ## The step -/

/-- A fetched instruction's `pc`, advanced, is at most the end of memory. -/
theorem State.advance_pc_bounds {s : State} {w : Word} (h : s.fetch = .ok w) :
    2 ≤ s.advance.pc.toNat ∧ s.advance.pc.toNat ≤ 0x1000 := by
  have hpc : s.pc.toNat + 1 < 4096 := State.pc_of_fetch_ok h
  have hadv : s.advance.pc.toNat = (s.pc.toNat + 2) % 65536 := BitVec.toNat_add s.pc 2
  omega

/-- A fetched instruction keeps the invariant. -/
theorem Inv.exec_step {i : Instr} {s t : State} (hs : Inv s) (hr : s.status = .running) (hi : s.nextInstr = some i)
    (h : exec i s.advance = .next t) : Inv t := by
  have hconf : t.config = s.config := (exec_unchanged h).config
  have hlatch := hs.exec_latch hr hi h
  obtain ⟨w, hw⟩ : ∃ w, s.fetch = .ok w := ⟨_, State.fetch_ok (State.pc_of_nextInstr hi)⟩
  obtain ⟨hlo, hhi⟩ := State.advance_pc_bounds hw
  exact {
    mem := exec_mem_wf h hs.mem
    pc := exec_pc_le h hlo hhi hs.returns
    returns := exec_returns h hhi hs.returns
    depth := exec_depth h hs.depth
    config := hconf ▸ hs.config
    latch := fun hl =>
      have ⟨hrun, hnext, _⟩ := hlatch.resolve_left hl
      ⟨hrun, hnext⟩
    release := fun k hk => by
      rcases hlatch with hidle | ⟨_, _, hrel⟩
      · rw [hidle] at hk; cases hk
      · rw [hconf]; exact hrel k hk }

/-- Settles O58: a fetch fault and an unknown word find the latch Idle and change `pc`, the status and the log only; a
fetched instruction is `Inv.exec_step`. -/
theorem stepKeepsInvariant : Obligations.StepKeepsInvariant := by
  intro s t hs h
  obtain ⟨hr, ⟨f, hf, rfl⟩ | ⟨w, hw, hd, rfl⟩ | ⟨i, hi, hx⟩⟩ := step_cases h
  · have hidle := hs.latch_idle fun x => by simp [State.nextInstr_of_fetch_error hf]
    exact { hs with latch := fun hl => absurd hidle hl }
  · have hidle := hs.latch_idle fun x => by simp [State.nextInstr_of_fetch_ok hw, hd]
    obtain ⟨_, hhi⟩ := State.advance_pc_bounds hw
    exact { hs with pc := hhi.trans (by decide), latch := fun hl => absurd hidle hl }
  · exact hs.exec_step hr hi hx

end Sys2Proof.Machine

/-!
# Memory (20 R200, R202, R207, R214)

A canonical memory is determined by its reads; what FX55 stores is what the following fetch and reads see.
-/

namespace Sys2Proof.Machine

/-! ## The canonical form is unique (20 R200) -/

namespace Memory

variable {lo lo' k : Nat} {b : Byte} {m m' : Memory}

theorem wfFrom_cons_iff :
    wfFrom lo ((k, b) :: m) = true ↔
      lo ≤ k ∧ k < Config.memSize ∧ b ≠ initialByte k ∧ wfFrom (k + 1) m = true := by
  simp [wfFrom, and_assoc]

/-- A canonical memory is canonical from its first entry upward. -/
theorem wfFrom_head (h : wfFrom lo ((k, b) :: m) = true) : wfFrom k ((k, b) :: m) = true := by
  obtain ⟨_, hcell⟩ := wfFrom_cons_iff.mp h
  exact wfFrom_cons_iff.mpr ⟨Nat.le_refl k, hcell⟩

theorem read_head : read ((k, b) :: m) k = b := if_pos rfl

theorem read_tail {a : Nat} (h : a ≠ k) : read ((k, b) :: m) a = read m a := if_neg h

/-- The first entry of a canonical memory differs from the construction value, so a canonical memory that reads the same
cannot begin above it. -/
theorem le_head_of_read_eq (hm : wfFrom lo ((k, b) :: m) = true) (hm' : wfFrom lo' m' = true)
    (h : ∀ a, a < Config.memSize → read ((k, b) :: m) a = read m' a) : lo' ≤ k := by
  obtain ⟨_, hk, hb, _⟩ := wfFrom_cons_iff.mp hm
  by_contra hlt
  have hread : b = initialByte k :=
    calc b = read ((k, b) :: m) k := read_head.symm
      _ = read m' k := h k hk
      _ = initialByte k := read_below hm' (Nat.lt_of_not_le hlt)
  exact hb hread

/-- Only the empty canonical memory reads as the construction value everywhere. -/
theorem eq_nil_of_read_eq (hm : wfFrom lo m = true) (h : ∀ a, a < Config.memSize → read m a = read [] a) : m = [] := by
  cases m with
  | nil => rfl
  | cons c m =>
    obtain ⟨_, hk, _⟩ := wfFrom_cons_iff.mp hm
    have hend : Config.memSize ≤ c.1 := le_head_of_read_eq hm rfl h
    exact absurd hk (Nat.not_lt_of_le hend)

theorem eq_of_wfFrom_of_read_eq (hm : wfFrom lo m = true) (hm' : wfFrom lo' m' = true)
    (h : ∀ a, a < Config.memSize → read m a = read m' a) : m = m' := by
  induction m generalizing lo lo' m' with
  | nil => exact (eq_nil_of_read_eq hm' fun a ha => (h a ha).symm).symm
  | cons c m ih =>
    obtain ⟨k, b⟩ := c
    obtain ⟨_, hk, _, hrest⟩ := wfFrom_cons_iff.mp hm
    cases m' with
    | nil => exact eq_nil_of_read_eq hm h
    | cons c' m' =>
      obtain ⟨k', b'⟩ := c'
      obtain ⟨_, _, _, hrest'⟩ := wfFrom_cons_iff.mp hm'
      have hkk : k = k' := Nat.le_antisymm
        (le_head_of_read_eq hm' (wfFrom_head hm) fun a ha => (h a ha).symm)
        (le_head_of_read_eq hm (wfFrom_head hm') h)
      subst hkk
      have hbb : b = b' := read_head.symm.trans ((h k hk).trans read_head)
      have htails : ∀ a, a < Config.memSize → read m a = read m' a := by
        intro a ha
        by_cases hak : a = k
        · subst hak
          rw [read_below hrest (Nat.lt_succ_self a), read_below hrest' (Nat.lt_succ_self a)]
        · rw [← read_tail hak, h a ha, read_tail hak]
      rw [hbb, ih hrest hrest' htails]

end Memory

/-- Settles O31: the canonical form from address 0, by `Memory.eq_of_wfFrom_of_read_eq`. -/
theorem canonicalMemoryIsUnique : Obligations.CanonicalMemoryIsUnique :=
  fun _ _ hm hm' h => Memory.eq_of_wfFrom_of_read_eq hm hm' h

/-! ## What FX55 stores (43 R705) -/

section

variable {s : State} {x : Nibble}

@[simp] theorem State.storeFitting_pc (s : State) (a : Nat) (bs : List Byte) : (s.storeFitting a bs).pc = s.pc := rfl

/-- A block of registers inside memory is stored without a fault. -/
theorem execStoreRegs_of_fits (h : blockAddr s + x.val < Config.memSize) :
    execStoreRegs x s = .next (incrementIndex x (s.storeFitting (blockAddr s) (regBytes s x))) := by
  have hlen := length_regBytes s x
  have hall : (regBytes s x).take (Config.memSize - blockAddr s) = regBytes s x := List.take_of_length_le (by omega)
  rw [execStoreRegs, State.storeBytes_done _ _ _ (by omega), State.storeFitting, hall]
  rfl

/-- The byte of a register whose place in the block lies in memory. -/
theorem State.byteAt_storeFitting_regBytes (s : State) {a : Nat} {k : Nibble} (hk : k ≤ x)
    (ha : a + k.val < Config.memSize) : (s.storeFitting a (regBytes s x)).byteAt (a + k.val) = s.getV k := by
  have hlen := length_regBytes s x
  have hkx : k.val ≤ x.val := hk
  have hfit : k.val < Config.memSize - a := by omega
  have hget : ((regBytes s x).take (Config.memSize - a)).getD k.val 0 = s.getV k := by
    rw [List.getD_eq_getElem?_getD, List.getElem?_take_of_lt hfit, ← List.getD_eq_getElem?_getD,
      regBytes_getD s x k hk]
  rw [State.storeFitting, State.byteAt_setMem_writeList, List.length_take, if_pos (by omega),
    Nat.add_sub_cancel_left, hget]

theorem State.fetch_of_byteAt {a : Nat} {hi lo : Byte} (hpc : s.pc.toNat = a) (ha : a + 1 < Config.memSize)
    (hhi : s.byteAt a = hi) (hlo : s.byteAt (a + 1) = lo) : s.fetch = .ok (wordOfBytes hi lo) := by
  subst hpc hhi hlo
  exact State.fetch_ok ha

/-- With `I` at `pc`, the fetch after FX55 reads the two bytes it stored first (20 R207, R214). -/
theorem State.fetch_storeFitting_regBytes (s : State) (hx : 1 ≤ x.val) (hpc : s.pc.toNat = blockAddr s)
    (h : blockAddr s + x.val < Config.memSize) :
    (incrementIndex x (s.storeFitting (blockAddr s) (regBytes s x))).fetch =
      .ok (wordOfBytes (s.getV 0) (s.getV 1)) := by
  have hhi : (s.storeFitting (blockAddr s) (regBytes s x)).byteAt (blockAddr s) = s.getV 0 :=
    s.byteAt_storeFitting_regBytes (k := 0) (Fin.zero_le x) (by omega)
  have hlo : (s.storeFitting (blockAddr s) (regBytes s x)).byteAt (blockAddr s + 1) = s.getV 1 :=
    s.byteAt_storeFitting_regBytes (k := 1) hx (by omega)
  exact State.fetch_of_byteAt (by rw [incrementIndex_pc, State.storeFitting_pc, hpc]) (by omega)
    ((incrementIndex_byteAt x _ _).trans hhi) ((incrementIndex_byteAt x _ _).trans hlo)

end

/-- Settles O30: FX55 runs in the state whose `pc` has been advanced, where `I` is `pc`. -/
theorem storedCodeIsFetched : Obligations.StoredCodeIsFetched := by
  intro s x hr hi hx hidx hin
  have hpc : s.advance.pc.toNat = blockAddr s.advance :=
    (BitVec.toNat_add_of_lt (show s.pc.toNat + 2 < 65536 by omega)).trans hidx.symm
  exact ⟨_, (step_of_nextInstr hr hi).trans (execStoreRegs_of_fits hin),
    s.advance.fetch_storeFitting_regBytes hx hpc hin⟩

end Sys2Proof.Machine

/-!
# The encoding (30 R300, R304-R311)

Encoder and decoder are inverse to each other (`decodeWord_eq_some_iff`). What has no meaning, and which row of the
opcode table a word belongs to, follows from that and from the fields of the word.
-/

namespace Sys2Proof

open Laws

/-! ## The decoder undoes the encoder -/

/-- One case per format (30 R302): the fields of the encoded word are the operands, and `op` with the function code
selects the instruction. -/
@[simp] theorem decodeWord_encode (i : Instr) : decodeWord (encode i) = some i := by
  cases i with
  | cls | ret => rfl
  | jp nnn | call nnn | ldI nnn | jpV0 nnn => simp [encode, decodeWord, fields_wordA]
  | seImm x nn | sneImm x nn | ldImm x nn | addImm x nn | rnd x nn => simp [encode, decodeWord, fields_wordXK]
  | seReg x y | sneReg x y => simp [encode, decodeWord, fields_wordXYN]
  | drw x y n => simp [encode, decodeWord, fields_wordXYN, nibbleBits]
  | ldReg x y | orReg x y | andReg x y | xorReg x y | addReg x y | subReg x y | shr x y | subnReg x y | shl x y =>
    simp [encode, decodeWord, fields_wordXYN, decodeFamily8]
  | skp x | sknp x => simp [encode, decodeWord, fields_wordXK, decodeFamilyE]
  | ldVxDt x | ldVxK x | ldDtVx x | ldStVx x | addI x | ldF x | ldB x | storeRegs x | loadRegs x =>
    simp [encode, decodeWord, fields_wordXK, decodeFamilyF]

/-- Settles O1: the words are `decodeWord_encode`, and the bytes are those of the word (`decode_bytes`). -/
theorem decodeOfEncode : Obligations.DecodeOfEncode := by
  intro i rest
  refine ⟨decodeWord_encode i, ?_⟩
  calc decode (encodeBytes i ++ rest) = (decodeWord (encode i)).map (·, rest) := decode_bytes (encode i) rest
    _ = some (i, rest) := by rw [decodeWord_encode, Option.map_some]

/-! ## The encoder undoes the decoder -/

section

variable {w : Word} {i : Instr}

/-- Format `XF`: the word rebuilt from `op`, `x` and the function byte. -/
theorem wordXF_fields {op : BitVec 4} {nn : Byte} (hop : (fieldOp w).val = op.toNat)
    (hnn : (fieldNN w).toNat = nn.toNat) : wordXK op (fieldX w) nn = w :=
  BitVec.eq_of_toNat_eq hnn ▸ wordXK_fields hop

theorem encode_of_decodeFamily0 (h : decodeFamily0 w = some i) : encode i = w := by
  unfold decodeFamily0 at h
  split at h
  · next hw => cases h; exact hw.symm
  · split at h
    · next hw => cases h; exact hw.symm
    · cases h

theorem encode_of_decodeFamily8 (hop : (fieldOp w).val = 0x8)
    (h : decodeFamily8 (fieldX w) (fieldY w) (fieldN w) = some i) : encode i = w := by
  unfold decodeFamily8 at h
  split at h <;> cases h <;> next hn => exact wordXYN_fields hop hn

theorem encode_of_decodeFamilyE (hop : (fieldOp w).val = 0xE) (h : decodeFamilyE (fieldX w) (fieldNN w) = some i) :
    encode i = w := by
  unfold decodeFamilyE at h
  split at h <;> cases h <;> next hnn => exact wordXF_fields hop hnn

theorem encode_of_decodeFamilyF (hop : (fieldOp w).val = 0xF) (h : decodeFamilyF (fieldX w) (fieldNN w) = some i) :
    encode i = w := by
  unfold decodeFamilyF at h
  split at h <;> cases h <;> next hnn => exact wordXF_fields hop hnn

/-- Case `h_k` is `op` = k - 1 (30 R304): the families cite their lemmas, the others rebuild the word from the fields of
their format. -/
theorem encode_of_decodeWord (h : decodeWord w = some i) : encode i = w := by
  simp only [decodeWord] at h
  split at h
  case h_1 => exact encode_of_decodeFamily0 h
  case h_9 hop => exact encode_of_decodeFamily8 hop h
  case h_6 hop | h_10 hop =>
    obtain ⟨hn, hi⟩ := Option.ite_none_right_eq_some.mp h
    cases hi
    exact wordXYN_fields hop (congrArg Fin.val hn)
  case h_14 hop => cases h; exact wordXYN_fields hop rfl
  case h_15 hop => exact encode_of_decodeFamilyE hop h
  case h_16 hop => exact encode_of_decodeFamilyF hop h
  case h_2 hop | h_3 hop | h_11 hop | h_12 hop => cases h; exact wordA_fields hop
  case h_4 hop | h_5 hop | h_7 hop | h_8 hop | h_13 hop => cases h; exact wordXK_fields hop
  case h_17 => cases h

/-- One meaning per word, one word per instruction (30 R310, R311). -/
theorem decodeWord_eq_some_iff : decodeWord w = some i ↔ encode i = w :=
  ⟨encode_of_decodeWord, fun h => h ▸ decodeWord_encode i⟩

end

/-- Settles O2, one direction of `decodeWord_eq_some_iff`. -/
theorem encodeOfDecode : Obligations.EncodeOfDecode := fun _ _ => decodeWord_eq_some_iff.mp

/-! ## The unknown words (30 R309) -/

theorem decodeFamily0_eq_none_iff {w : Word} : decodeFamily0 w = none ↔ w.toNat ≠ 0x00E0 ∧ w.toNat ≠ 0x00EE := by
  simp only [decodeFamily0, ← BitVec.toNat_inj, BitVec.toNat_ofNat]
  split_ifs <;> simp [*]

theorem decodeFamily8_eq_none_iff {x y n : Nibble} :
    decodeFamily8 x y n = none ↔ n.val ∈ [0x8, 0x9, 0xA, 0xB, 0xC, 0xD, 0xF] := by
  fin_cases n <;> simp [decodeFamily8]

theorem decodeFamilyE_eq_none_iff {x : Nibble} {nn : Byte} :
    decodeFamilyE x nn = none ↔ nn.toNat ∉ [0x9E, 0xA1] := by
  unfold decodeFamilyE
  split <;> simp_all

theorem decodeFamilyF_eq_none_iff {x : Nibble} {nn : Byte} :
    decodeFamilyF x nn = none ↔ nn.toNat ∉ [0x07, 0x0A, 0x15, 0x18, 0x1E, 0x29, 0x33, 0x55, 0x65] := by
  unfold decodeFamilyF
  split <;> simp_all

/-- Only the six families that select further than by `op` leave words without a meaning (30 R304). -/
theorem decodeWord_eq_none_iff {w : Word} : decodeWord w = none ↔
    ((fieldOp w).val = 0x0 ∧ decodeFamily0 w = none) ∨
    ((fieldOp w).val = 0x5 ∧ fieldN w ≠ 0) ∨
    ((fieldOp w).val = 0x8 ∧ decodeFamily8 (fieldX w) (fieldY w) (fieldN w) = none) ∨
    ((fieldOp w).val = 0x9 ∧ fieldN w ≠ 0) ∨
    ((fieldOp w).val = 0xE ∧ decodeFamilyE (fieldX w) (fieldNN w) = none) ∨
    ((fieldOp w).val = 0xF ∧ decodeFamilyF (fieldX w) (fieldNN w) = none) := by
  unfold decodeWord
  generalize fieldOp w = op
  fin_cases op <;> simp

/-- Settles O3: the outer map, and what each family leaves without a meaning. -/
theorem unknownWordsAreThePatterns : Obligations.UnknownWordsAreThePatterns := by
  intro w
  have hn : fieldN w ≠ 0 ↔ w.toNat % 16 ≠ 0 := by rw [← val_fieldN]; exact not_congr Fin.ext_iff
  rw [decodeWord_eq_none_iff, decodeFamily0_eq_none_iff, decodeFamily8_eq_none_iff, decodeFamilyE_eq_none_iff,
    decodeFamilyF_eq_none_iff, hn, val_fieldOp, val_fieldN, toNat_fieldNN]
  rfl

/-! ## The rows of the opcode table (30 R310, R311) -/

/-- Every instruction's word lies in its row. -/
theorem accepts_row_encode (i : Instr) : i.row.accepts (encode i) = true :=
  Instr.rec (motive := RowMatch.Statement) RowMatch.cls RowMatch.ret RowMatch.jp RowMatch.call RowMatch.seImm
    RowMatch.sneImm RowMatch.seReg RowMatch.ldImm RowMatch.addImm RowMatch.ldReg RowMatch.orReg RowMatch.andReg
    RowMatch.xorReg RowMatch.addReg RowMatch.subReg RowMatch.shr RowMatch.subnReg RowMatch.shl RowMatch.sneReg
    RowMatch.ldI RowMatch.jpV0 RowMatch.rnd RowMatch.drw RowMatch.skp RowMatch.sknp RowMatch.ldVxDt RowMatch.ldVxK
    RowMatch.ldDtVx RowMatch.ldStVx RowMatch.addI RowMatch.ldF RowMatch.ldB RowMatch.storeRegs RowMatch.loadRegs i

theorem row_mem_opcodeRows (i : Instr) : i.row ∈ opcodeRows := by
  cases i <;> exact List.elem_iff.mp rfl

/-- The fixed bits of a row are a word of that row, so every row is an instruction's. -/
theorem exists_row_eq {r : Row} (hr : r ∈ opcodeRows) : ∃ i : Instr, i.row = r := by
  have hpat : ∀ r ∈ opcodeRows, (decodeWord r.pattern).map Instr.row = some r := by decide
  obtain ⟨i, _, hi⟩ := Option.map_eq_some_iff.mp (hpat r hr)
  exact ⟨i, hi⟩

section

variable {r : Row} {w : Word}

/-- A slice that the mask fixes is the pattern's. -/
theorem extractLsb'_of_accepts {lo len : Nat} (h : r.accepts w = true)
    (hmask : r.mask.extractLsb' lo len = BitVec.allOnes len) : w.extractLsb' lo len = r.pattern.extractLsb' lo len := by
  rw [← beq_iff_eq.mp h, BitVec.extractLsb'_and, hmask, BitVec.and_allOnes]

/-- Every row fixes `op`. -/
theorem fieldOp_of_accepts (hr : r ∈ opcodeRows) (h : r.accepts w = true) : fieldOp w = fieldOp r.pattern :=
  have hmask : ∀ r ∈ opcodeRows, r.mask.extractLsb' 12 4 = BitVec.allOnes 4 := by decide
  congrArg BitVec.toFin (extractLsb'_of_accepts h (hmask r hr))

theorem fieldN_of_accepts (h : r.accepts w = true) (hmask : r.mask.extractLsb' 0 4 = BitVec.allOnes 4) :
    fieldN w = fieldN r.pattern := congrArg BitVec.toFin (extractLsb'_of_accepts h hmask)

theorem fieldNN_of_accepts (h : r.accepts w = true) (hmask : r.mask.extractLsb' 0 8 = BitVec.allOnes 8) :
    fieldNN w = fieldNN r.pattern := extractLsb'_of_accepts h hmask

end

/-- A word of an instruction's row decodes to an instruction of that row: the row fixes `op` and the function code. -/
theorem decodeWord_row_of_accepts {i : Instr} {w : Word} (h : i.row.accepts w = true) :
    (decodeWord w).map Instr.row = some i.row := by
  have hop := fieldOp_of_accepts (row_mem_opcodeRows i) h
  cases i with
  | cls | ret =>
    have hw := BitVec.and_allOnes.symm.trans (beq_iff_eq.mp h)
    rw [hw]
    rfl
  | jp _ | call _ | ldI _ | jpV0 _ | seImm _ _ | sneImm _ _ | ldImm _ _ | addImm _ _ | rnd _ _ | drw _ _ _ =>
    dsimp only [Instr.row] at hop
    rw [decodeWord, hop]
    rfl
  | seReg _ _ | sneReg _ _ | ldReg _ _ | orReg _ _ | andReg _ _ | xorReg _ _ | addReg _ _ | subReg _ _ | shr _ _
  | subnReg _ _ | shl _ _ =>
    have hn := fieldN_of_accepts h (show (0xF00F#16).extractLsb' 0 4 = _ by decide)
    dsimp only [Instr.row] at hop hn
    rw [decodeWord, hop, hn]
    rfl
  | skp _ | sknp _ | ldVxDt _ | ldVxK _ | ldDtVx _ | ldStVx _ | addI _ | ldF _ | ldB _ | storeRegs _ | loadRegs _ =>
    have hnn := fieldNN_of_accepts h (show (0xF0FF#16).extractLsb' 0 8 = _ by decide)
    dsimp only [Instr.row] at hop hnn
    rw [decodeWord, hop, hnn]
    rfl

/-- A row of the table matches the words that decode to an instruction of that row. -/
theorem accepts_iff_decodeWord_row {r : Row} {w : Word} (hr : r ∈ opcodeRows) :
    r.accepts w = true ↔ (decodeWord w).map Instr.row = some r := by
  constructor
  · obtain ⟨i, rfl⟩ := exists_row_eq hr
    exact decodeWord_row_of_accepts
  · intro h
    obtain ⟨i, hi, rfl⟩ := Option.map_eq_some_iff.mp h
    rw [← decodeWord_eq_some_iff.mp hi]
    exact accepts_row_encode i

theorem wellFormedWord_iff {w : Word} : wellFormedWord w = true ↔ ∃ i, decodeWord w = some i := by
  rw [wellFormedWord, List.any_eq_true]
  constructor
  · rintro ⟨r, hr, h⟩
    obtain ⟨i, hi, _⟩ := Option.map_eq_some_iff.mp ((accepts_iff_decodeWord_row hr).mp h)
    exact ⟨i, hi⟩
  · rintro ⟨i, hi⟩
    have hr := row_mem_opcodeRows i
    exact ⟨i.row, hr, (accepts_iff_decodeWord_row hr).mpr (congrArg (Option.map Instr.row) hi)⟩

/-- Settles O4: two rows that match a word are both the row of the instruction it decodes to. -/
theorem opcodeRowsDisjointAndDecoded : Obligations.OpcodeRowsDisjointAndDecoded := by
  refine ⟨fun w r r' hr hr' h h' => ?_, fun w => ?_⟩
  · have hrow := (accepts_iff_decodeWord_row hr).mp h
    have hrow' := (accepts_iff_decodeWord_row hr').mp h'
    exact Option.some.inj (hrow.symm.trans hrow')
  · rw [Bool.eq_iff_iff, wellFormedWord_iff, Option.isSome_iff_exists]

/-! ## Sample words (41 to 45, the Encoding lines) -/

/-- Settles O5: the samples are the encodings of their instructions; 0x8018 is one of the unknown patterns. -/
theorem familySampleWords : Obligations.FamilySampleWords :=
  ⟨decodeWord_encode .cls, decodeWord_encode (.call 0x300), decodeWord_encode (.addReg 1 2),
    decodeWord_encode (.drw 0 1 5), decodeWord_encode (.storeRegs 2), decodeWord_encode (.skp 5),
    decodeWord_eq_none_iff.mpr (.inr (.inr (.inl ⟨rfl, rfl⟩)))⟩

end Sys2Proof

/-!
# The step (40 R401 to R408, R410, R413)

What a step does, an equation per branch of its definition; every meaning answers a next state (`exec_next`).
-/

namespace Sys2Proof.Machine

section

variable {s : State} {f : FatalFault} {w : Word}

theorem step_of_faulted (h : s.status = .faulted f) : step s = .fault (.runFaulted f) := by
  simp only [step, h]

theorem step_of_fetch_error (hr : s.status = .running) (hf : s.fetch = .error f) : step s = .next (s.raise f) := by
  simp only [step, hr, hf]

theorem step_of_fetch_ok (hr : s.status = .running) (hf : s.fetch = .ok w) : step s = execWord w s.advance := by
  simp only [step, hr, hf]

theorem execWord_of_unknown (h : decodeWord w = none) (s : State) : execWord w s = .next (s.unknownOpcode w) := by
  simp only [execWord, h]

/-- Two bytes decode as the word they make, high byte first (20 R203, 40 R402). -/
theorem decode_pair (hi lo : Byte) : decode [hi, lo] = (decodeWord (wordOfBytes hi lo)).map (·, []) := rfl

/-- The address of the instruction in execution is the `pc` it was fetched from (40 R404). -/
@[simp] theorem State.instrAddr_advance (s : State) : s.advance.instrAddr = s.pc := BitVec.add_sub_cancel s.pc 2

end

/-- Settles O6: the fetch reads the two bytes, and the step runs the instruction they decode to. -/
theorem stepRunsTheDecodedInstruction : Obligations.StepRunsTheDecodedInstruction := by
  intro s i hr hpc hd
  rw [decode_pair, Option.map_eq_some_iff] at hd
  obtain ⟨j, hj, hji⟩ := hd
  cases hji
  exact step_of_nextInstr hr ((State.nextInstr_of_fetch_ok (State.fetch_ok hpc)).trans hj)

/-- Settles O7: the record is appended in the state whose `pc` has been advanced, which does not wrap. -/
theorem unknownEncodingOnlyRecords : Obligations.UnknownEncodingOnlyRecords := by
  intro s hr hpc hd
  rw [decode_pair, Option.map_eq_none_iff] at hd
  have hadv : s.advance.pc.toNat = s.pc.toNat + 2 :=
    BitVec.toNat_add_of_lt (show s.pc.toNat + 2 < 65536 by omega)
  have hframe := Unchanged.refl { pc := true, diags := true } s
  refine ⟨_, (step_of_fetch_ok hr (State.fetch_ok hpc)).trans (execWord_of_unknown hd _), hadv, ?_,
    (hframe.thenSetPc rfl _).thenDiag rfl _⟩
  rw [State.unknownOpcode, State.diag_diags, State.instrAddr_advance, State.advance_diags]

/-- Settles O8: the fault of `State.fetch_error`, taken before the advance. -/
theorem fetchOutOfBoundsFaults : Obligations.FetchOutOfBoundsFaults := by
  intro s hr hpc
  refine ⟨_, step_of_fetch_error hr (State.fetch_error hpc), ?_, Unchanged.raise s _⟩
  have hfirst : max s.pc.toNat 4096 = if s.pc.toNat < 4096 then 4096 else s.pc.toNat := by
    split <;> omega
  rw [State.raise_status, ← hfirst]

/-! ## Every meaning answers a next state (40 R408) -/

theorem Attempt.result_next (a : Attempt) : ∃ t, a.result = .next t := by
  cases a with
  | done s => exact ⟨s, rfl⟩
  | raised f s => exact ⟨s.raise f, rfl⟩

/-- A fatal fault is a next state too (60 R1001), so no branch answers anything else. -/
theorem exec_next (i : Instr) (s : State) : ∃ t, exec i s = .next t := by
  cases i with
  | ret =>
    dsimp only [exec, execRet]
    split <;> exact ⟨_, rfl⟩
  | call nnn =>
    dsimp only [exec, execCall]
    split <;> exact ⟨_, rfl⟩
  | drw x y n =>
    dsimp only [exec, execDrw]
    split <;> exact ⟨_, rfl⟩
  | ldVxK x =>
    dsimp only [exec, execLdVxK]
    split <;> exact ⟨_, rfl⟩
  | ldB x | storeRegs x | loadRegs x => exact Attempt.result_next _
  | _ => exact ⟨_, rfl⟩

theorem execWord_next (w : Word) (s : State) : ∃ t, execWord w s = .next t := by
  unfold execWord
  split
  · exact exec_next _ s
  · exact ⟨_, rfl⟩

theorem step_next {s : State} (hr : s.status = .running) : ∃ t, step s = .next t := by
  cases hf : s.fetch with
  | error f => exact ⟨_, step_of_fetch_error hr hf⟩
  | ok w => rw [step_of_fetch_ok hr hf]; exact execWord_next w s.advance

/-- Settles O9, by `exec_next` and `step_next`; `step_cases` says that a step is taken only while Running. -/
theorem stepEnabledIffRunning : Obligations.StepEnabledIffRunning :=
  ⟨exec_next, fun _ => ⟨⟨fun ⟨_, h⟩ => (step_cases h).1, step_next⟩, fun _ => step_of_faulted⟩⟩

/-! ## The timers (40 R410) -/

section

variable {i : Instr} {s t : State}

theorem exec_dt (h : exec i s = .next t) (hne : t.dt ≠ s.dt) : ∃ x, i = .ldDtVx x ∧ t.dt = s.getV x := by
  have hw : (i.writes s).dt = true := eq_true_of_ne_false fun hw => hne ((exec_unchanged h).dt hw)
  cases i with
  | ldDtVx x => cases h; exact ⟨x, rfl, rfl⟩
  | _ => cases hw

theorem exec_st (h : exec i s = .next t) (hne : t.st ≠ s.st) : ∃ x, i = .ldStVx x ∧ t.st = s.getV x := by
  have hw : (i.writes s).st = true := eq_true_of_ne_false fun hw => hne ((exec_unchanged h).st hw)
  cases i with
  | ldStVx x => cases h; exact ⟨x, rfl, rfl⟩
  | _ => cases hw

end

/-- Settles O48: a fetch fault and an unknown encoding leave the timers, and of the instructions only FX15 and FX18 have
one in their frame. -/
theorem stepsNeverTickTheTimers : Obligations.StepsNeverTickTheTimers := by
  intro s t h
  obtain ⟨_, ⟨f, _, rfl⟩ | ⟨w, _, _, rfl⟩ | ⟨i, hi, hx⟩⟩ := step_cases h
  · exact ⟨fun hne => absurd rfl hne, fun hne => absurd rfl hne⟩
  · exact ⟨fun hne => absurd rfl hne, fun hne => absurd rfl hne⟩
  · simp only [hi, Option.some.injEq]
    exact ⟨exec_dt (s := s.advance) hx, exec_st (s := s.advance) hx⟩

/-! ## The wait of FX0A (40 R412, 45 R906) -/

/-- An FX0A that has recorded no key is about to run, and no key is down. -/
structure WaitsForKey (s : State) (x : Nibble) : Prop where
  running : s.status = .running
  next : s.nextInstr = some (.ldVxK x)
  latch : s.latch = .idle ∨ s.latch = .waitingForPress
  keys : ∀ k : Nibble, s.keyDown k = false

section

variable {s : State} {x : Nibble}

/-- Before a press, FX0A with no key down waits at its own address. -/
theorem execLdVxK_of_noKey (hl : s.latch = .idle ∨ s.latch = .waitingForPress) (hk : ∀ k, s.keyDown k = false) :
    execLdVxK x s = .next (s.setLatch .waitingForPress).stay := by
  have hwait : awaitPress x s = (s.setLatch .waitingForPress).stay := by
    rw [awaitPress, (State.pickKey_eq_none s).mpr hk]
  rcases hl with hl | hl <;> simp only [execLdVxK, hl, hwait]

/-- The wait undoes the fetch advance. -/
theorem State.stay_setLatch_advance (s : State) (l : Latch) : (s.advance.setLatch l).stay = s.setLatch l := by
  have hpc : (s.advance.setLatch l).stay.pc = s.pc := BitVec.add_sub_cancel s.pc 2
  calc (s.advance.setLatch l).stay = (s.setLatch l).setPc (s.advance.setLatch l).stay.pc := rfl
    _ = s.setLatch l := by rw [hpc]; rfl

theorem WaitsForKey.step_eq (h : WaitsForKey s x) : step s = .next (s.setLatch .waitingForPress) := by
  rw [step_of_nextInstr h.running h.next, ← State.stay_setLatch_advance]
  exact execLdVxK_of_noKey (s := s.advance) h.latch h.keys

/-- The wait goes on: the state after such a step waits for a key again. -/
theorem WaitsForKey.setLatch_waitingForPress (h : WaitsForKey s x) : WaitsForKey (s.setLatch .waitingForPress) x where
  running := h.running
  next := (State.nextInstr_congr (s.setLatch_pc _) (s.setLatch_mem _)).trans h.next
  latch := .inr rfl
  keys := h.keys

theorem runSteps_succ_of_step {t : State} (hs : step s = .next t) (n : Nat) :
    runSteps (n + 1) s = runSteps n t := by
  have ⟨hr, _⟩ := step_cases hs
  simp only [runSteps, hr, HostOp.apply, hs]

theorem WaitsForKey.runSteps_eq (n : Nat) (h : WaitsForKey s x) :
    runSteps (n + 1) s = s.setLatch .waitingForPress := by
  induction n generalizing s with
  | zero => exact runSteps_succ_of_step h.step_eq 0
  | succ n ih => exact (runSteps_succ_of_step h.step_eq (n + 1)).trans (ih h.setLatch_waitingForPress)

end

/-- Settles O41, by induction on the number of steps: each finds and leaves a state that waits for a key. -/
theorem keyWaitHoldsForAnyNumberOfSteps : Obligations.KeyWaitHoldsForAnyNumberOfSteps := by
  intro n s x hr hi hl hk
  have hw : WaitsForKey s x := ⟨hr, hi, hl, hk⟩
  rw [hw.runSteps_eq n]
  exact ⟨rfl, hw.setLatch_waitingForPress.next⟩

end Sys2Proof.Machine

/-!
# The inputs of a step (40 R400, R411)

The keypad and the free values are inputs; only FX0A, EX9E and EXA1 read the one, only CXNN and FX0A the other. Every
other meaning commutes with replacing them (`exec_withInputs`).
-/

namespace Sys2Proof.Instr

/-- Only CXNN and FX0A have the counter of free values in their frame. -/
theorem drawWriter_of_writes {i : Instr} {s : Machine.State} (h : (i.writes s).draws = true) :
    (∃ x nn, i = .rnd x nn) ∨ ∃ x, i = .ldVxK x := by
  cases i with
  | rnd x nn => exact .inl ⟨x, nn, rfl⟩
  | ldVxK x => exact .inr ⟨x, rfl⟩
  | _ => cases h

end Sys2Proof.Instr

namespace Sys2Proof.Machine

/-- Both inputs of a step replaced: the keypad and the counter of free values. -/
def State.withInputs (s : State) (k : Keypad) (d : Nat) : State := { s with keys := k, draws := d }

/-- The inputs replaced in the state an attempt came to. -/
def Attempt.withInputs (k : Keypad) (d : Nat) : Attempt → Attempt
  | .done s => .done (s.withInputs k d)
  | .raised f s => .raised f (s.withInputs k d)

theorem State.poll_eq_withInputs (s : State) (k : Keypad) : s.poll k = s.withInputs k s.draws := rfl

@[simp] theorem State.withInputs_getV (s : State) (k : Keypad) (d : Nat) (x : Nibble) :
    (s.withInputs k d).getV x = s.getV x := rfl

@[simp] theorem State.withInputs_memRead (s : State) (k : Keypad) (d a : Nat) :
    (s.withInputs k d).memRead a = s.memRead a := rfl

theorem State.withInputs_ite (k : Keypad) (d : Nat) (c : Prop) [Decidable c] (s t : State) :
    (if c then s else t).withInputs k d = if c then s.withInputs k d else t.withInputs k d :=
  apply_ite (State.withInputs · k d) c s t

/-! ## The shared operations -/

section

variable (s : State) (k : Keypad) (d : Nat)

theorem State.skipIf_withInputs (c : Bool) : (s.withInputs k d).skipIf c = (s.skipIf c).withInputs k d := by
  cases c <;> rfl

theorem shiftSource_withInputs (x y : Nibble) :
    shiftSource (s.withInputs k d) x y = (shiftSource s x y).withInputs k d := by
  unfold shiftSource
  rw [State.withInputs_ite]
  rfl

theorem incrementIndex_withInputs (x : Nibble) :
    incrementIndex x (s.withInputs k d) = (incrementIndex x s).withInputs k d := by
  unfold incrementIndex
  rw [State.withInputs_ite]
  rfl

theorem State.readBytes_withInputs (n : Nat) : ∀ a, (s.withInputs k d).readBytes n a = s.readBytes n a := by
  induction n with
  | zero => exact fun _ => rfl
  | succ n ih => intro a; simp only [State.readBytes, State.withInputs_memRead, ih]

theorem State.storeBytes_withInputs (bs : List Byte) : ∀ (a : Nat) (s : State),
    State.storeBytes bs a (s.withInputs k d) = (State.storeBytes bs a s).withInputs k d := by
  induction bs with
  | nil => exact fun _ _ => rfl
  | cons b bs ih =>
    intro a s
    unfold State.storeBytes
    split
    · exact ih (a + 1) (s.poke a b)
    · rfl

theorem State.loadRegisters_withInputs (xs : List Nibble) : ∀ (a : Nat) (s : State),
    State.loadRegisters xs a (s.withInputs k d) = (State.loadRegisters xs a s).withInputs k d := by
  induction xs with
  | nil => exact fun _ _ => rfl
  | cons x xs ih =>
    intro a s
    unfold State.loadRegisters
    rw [State.withInputs_memRead]
    split
    · rfl
    · next b _ => exact ih (a + 1) (s.setV x b)

theorem Attempt.andThen_incrementIndex_withInputs (a : Attempt) (x : Nibble) :
    (a.withInputs k d).andThen (incrementIndex x) = (a.andThen (incrementIndex x)).withInputs k d := by
  cases a with
  | done s => exact congrArg Attempt.done (incrementIndex_withInputs s k d x)
  | raised f s => rfl

theorem Attempt.result_withInputs {a : Attempt} {t : State} (h : a.result = .next t) :
    (a.withInputs k d).result = .next (t.withInputs k d) := by
  cases a <;> cases h <;> rfl

/-- FX55 and FX65: a block, then quirk-D's increment (43 R705, R706). -/
theorem Attempt.result_andThen_withInputs {a : Attempt} {x : Nibble} {t : State}
    (h : (a.andThen (incrementIndex x)).result = .next t) :
    ((a.withInputs k d).andThen (incrementIndex x)).result = .next (t.withInputs k d) := by
  rw [Attempt.andThen_incrementIndex_withInputs]
  exact Attempt.result_withInputs k d h

/-- EX9E and EXA1 read the keypad only. -/
theorem skipOnKey_withInputs_keys (down : Bool) (x : Nibble) :
    skipOnKey down x (s.withInputs s.keys d) = (skipOnKey down x s).withInputs s.keys d := by
  unfold skipOnKey
  rw [State.withInputs_getV]
  split
  · rfl
  · exact State.skipIf_withInputs s s.keys d _

end

/-! ## The meanings that branch -/

section

variable {s t : State} {x : Nibble} (k : Keypad) (d : Nat)

theorem execRet_of_empty (h : s.stack = []) : execRet s = .next (s.raise (.stackUnderflow s.instrAddr)) := by
  rw [execRet, State.pop, h]

theorem execRet_of_cons {w : Word} {rest : List Word} (h : s.stack = w :: rest) :
    execRet s = .next ((s.setStack rest).setPc w) := by
  rw [execRet, State.pop, h]

theorem execRet_withInputs (h : execRet s = .next t) : execRet (s.withInputs k d) = .next (t.withInputs k d) := by
  rcases execRet_cases h with ⟨hs, rfl⟩ | ⟨w, rest, hs, rfl⟩
  · exact execRet_of_empty (s := s.withInputs k d) hs
  · exact execRet_of_cons (s := s.withInputs k d) hs

theorem execCall_withInputs {nnn : Addr12} (h : execCall nnn s = .next t) :
    execCall nnn (s.withInputs k d) = .next (t.withInputs k d) := by
  rcases execCall_cases h with ⟨hfull, rfl⟩ | ⟨hroom, rfl⟩
  · exact if_pos (decide_eq_true hfull)
  · exact if_neg (mt of_decide_eq_true hroom)

theorem execDrw_of_error {y n : Nibble} {f : FatalFault} (h : s.readBytes n.val (blockAddr s) = .error f) :
    execDrw x y n s = .next (s.raise f) := by
  rw [execDrw, h]

theorem execDrw_of_ok {y n : Nibble} {rows : List Byte} (h : s.readBytes n.val (blockAddr s) = .ok rows) :
    execDrw x y n s = .next (drawSprite rows x y s) := by
  rw [execDrw, h]

theorem execDrw_withInputs {y n : Nibble} (h : execDrw x y n s = .next t) :
    execDrw x y n (s.withInputs k d) = .next (t.withInputs k d) := by
  have hread := s.readBytes_withInputs k d n.val (blockAddr s)
  cases hr : s.readBytes n.val (blockAddr s) with
  | error f => rw [execDrw_of_error hr] at h; cases h; exact execDrw_of_error (hread.trans hr)
  | ok rows => rw [execDrw_of_ok hr] at h; cases h; exact execDrw_of_ok (hread.trans hr)

/-- FX1E branches on quirk-C and on the sum (43 R702). -/
theorem execAddI_withInputs (h : execAddI x s = .next t) :
    execAddI x (s.withInputs k d) = .next (t.withInputs k d) := by
  unfold execAddI at h ⊢
  cases h
  rw [State.withInputs_ite]
  rfl

/-- FX29 branches on the digit (43 R703). -/
theorem execLdF_withInputs (h : execLdF x s = .next t) :
    execLdF x (s.withInputs k d) = .next (t.withInputs k d) := by
  unfold execLdF at h ⊢
  cases h
  rw [State.withInputs_ite]
  rfl

theorem execLdB_withInputs (h : execLdB x s = .next t) :
    execLdB x (s.withInputs k d) = .next (t.withInputs k d) :=
  (congrArg Attempt.result (State.storeBytes_withInputs k d _ _ s)).trans (Attempt.result_withInputs k d h)

theorem execStoreRegs_withInputs (h : execStoreRegs x s = .next t) :
    execStoreRegs x (s.withInputs k d) = .next (t.withInputs k d) := by
  have hstore := State.storeBytes_withInputs k d (regBytes s x) (blockAddr s) s
  calc execStoreRegs x (s.withInputs k d)
      = ((State.storeBytes (regBytes s x) (blockAddr s) (s.withInputs k d)).andThen (incrementIndex x)).result := rfl
    _ = .next (t.withInputs k d) := by rw [hstore]; exact Attempt.result_andThen_withInputs k d h

theorem execLoadRegs_withInputs (h : execLoadRegs x s = .next t) :
    execLoadRegs x (s.withInputs k d) = .next (t.withInputs k d) := by
  have hload := State.loadRegisters_withInputs k d (regRange x) (blockAddr s) s
  calc execLoadRegs x (s.withInputs k d)
      = ((State.loadRegisters (regRange x) (blockAddr s) (s.withInputs k d)).andThen (incrementIndex x)).result := rfl
    _ = .next (t.withInputs k d) := by rw [hload]; exact Attempt.result_andThen_withInputs k d h

theorem execShr_withInputs {y : Nibble} (h : execShr x y s = .next t) :
    execShr x y (s.withInputs k d) = .next (t.withInputs k d) := by
  unfold execShr at h ⊢
  cases h
  rw [shiftSource_withInputs]
  rfl

theorem execShl_withInputs {y : Nibble} (h : execShl x y s = .next t) :
    execShl x y (s.withInputs k d) = .next (t.withInputs k d) := by
  unfold execShl at h ⊢
  cases h
  rw [shiftSource_withInputs]
  rfl

end

/-- AN INSTRUCTION USES NO INPUT but those its rule names: with both inputs replaced, a meaning other than CXNN and FX0A
does the same, and so do EX9E and EXA1 when the keypad stays (40 R411). -/
theorem exec_withInputs {i : Instr} {s t : State} {k : Keypad} (d : Nat) (h : exec i s = .next t)
    (hdraws : (∀ x nn, i ≠ .rnd x nn) ∧ ∀ x, i ≠ .ldVxK x)
    (hkeys : k = s.keys ∨ ∀ x, i ≠ .skp x ∧ i ≠ .sknp x) :
    exec i (s.withInputs k d) = .next (t.withInputs k d) := by
  obtain ⟨hrnd, hwait⟩ := hdraws
  cases i with
  | ret => exact execRet_withInputs k d h
  | call nnn => exact execCall_withInputs k d h
  | seImm x nn | sneImm x nn | seReg x y | sneReg x y =>
    cases h
    exact congrArg Host.Outcome.next (s.skipIf_withInputs k d _)
  | shr x y => exact execShr_withInputs k d h
  | shl x y => exact execShl_withInputs k d h
  | rnd x nn => exact absurd rfl (hrnd x nn)
  | drw x y n => exact execDrw_withInputs k d h
  | skp x | sknp x =>
    cases h
    obtain rfl := hkeys.resolve_right fun hno => by simpa using hno x
    exact congrArg Host.Outcome.next (skipOnKey_withInputs_keys s d _ x)
  | ldVxK x => exact absurd rfl (hwait x)
  | addI x => exact execAddI_withInputs k d h
  | ldF x => exact execLdF_withInputs k d h
  | ldB x => exact execLdB_withInputs k d h
  | storeRegs x => exact execStoreRegs_withInputs k d h
  | loadRegs x => exact execLoadRegs_withInputs k d h
  | _ => cases h; rfl

/-- Settles O50: CXNN uses the free value alone, and the instructions that keep the counter are `exec_withInputs`. -/
theorem keypadIsUsedOnlyByItsInstructions : Obligations.KeypadIsUsedOnlyByItsInstructions := by
  intro i s t k hi h
  obtain ⟨hskp, hsknp, hwait⟩ :
      (∀ x, i ≠ .skp x) ∧ (∀ x, i ≠ .sknp x) ∧ ∀ x, i ≠ .ldVxK x := by
    simpa only [forall_and] using hi
  by_cases hw : (i.writes s).draws = true
  · rcases Instr.drawWriter_of_writes hw with ⟨x, nn, rfl⟩ | ⟨x, rfl⟩
    · cases h; rfl
    · exact absurd rfl (hwait x)
  · have hrnd : ∀ x nn, i ≠ .rnd x nn := fun x nn e => hw (e ▸ rfl)
    have hdraws : t.draws = s.draws := (exec_unchanged h).draws (Bool.eq_false_of_not_eq_true hw)
    calc exec i (s.poll k) = .next (t.withInputs k s.draws) :=
          exec_withInputs s.draws h ⟨hrnd, hwait⟩ (.inr fun x => ⟨hskp x, hsknp x⟩)
      _ = .next (t.poll k) := by rw [State.poll_eq_withInputs, hdraws]

/-- Settles O51: an instruction keeps the keypad, so both sides replace the counter only. -/
theorem randomnessIsUsedOnlyByItsInstructions : Obligations.RandomnessIsUsedOnlyByItsInstructions := by
  intro i s t d hrnd hwait h
  have hkeys : t.keys = s.keys := (exec_unchanged h).keys
  calc exec i { s with draws := d } = .next (t.withInputs s.keys d) :=
        exec_withInputs d h ⟨hrnd, hwait⟩ (.inl rfl)
    _ = .next { t with draws := d } := by rw [← hkeys]; rfl

end Sys2Proof.Machine

/-!
# Control flow (41 R500 to R508, R510)

The encodings are `decodeWord_encode`; what a jump and a skip make of `pc` is a lemma on the target and on the
condition; RET and CALL have an equation per case of the stack.
-/

namespace Sys2Proof

/-! ## The encodings of families 5 and 9 (30 R304, R309) -/

/-- Families 5 and 9 have one function code, 0: a word with another low nibble is unknown (30 R304, R309; D13). -/
theorem decodeWord_wordXYN_eq_none {op n : BitVec 4} (hop : op = 0x5#4 ∨ op = 0x9#4) (x y : Nibble) (h : n ≠ 0) :
    decodeWord (wordXYN op x y n) = none := by
  obtain ⟨hf, _, _, hn⟩ := fields_wordXYN op x y n
  have hne : fieldN (wordXYN op x y n) ≠ 0 := by
    rw [hn]
    exact fun e => h (BitVec.eq_of_toNat_eq (congrArg Fin.val e))
  rw [decodeWord_eq_none_iff]
  rcases hop with rfl | rfl
  · exact .inr (.inl ⟨hf, hne⟩)
  · exact .inr (.inr (.inr (.inl ⟨hf, hne⟩)))

/-- The two families on every low nibble: the instruction with function code 0, or nothing. -/
theorem decodeWord_wordXYN_eq_ite {op : BitVec 4} (hop : op = 0x5#4 ∨ op = 0x9#4) {x y : Nibble} {i : Instr}
    (hi : encode i = wordXYN op x y 0) (n : BitVec 4) :
    decodeWord (wordXYN op x y n) = if n = 0 then some i else none := by
  split
  · next hn => rw [hn, ← hi, decodeWord_encode]
  · next hn => exact decodeWord_wordXYN_eq_none hop x y hn

end Sys2Proof

namespace Sys2Proof.Machine

/-! ## Jumps (41 R502, R508) -/

/-- BNNN's sum stays below 65536. -/
theorem toNat_offsetTarget (s : State) (nnn : Addr12) :
    (offsetTarget s nnn).toNat = nnn.toNat + (s.getV (offsetReg s nnn)).toNat := by
  have hn := nnn.isLt
  have hv := (s.getV (offsetReg s nnn)).isLt
  rw [offsetTarget, BitVec.toNat_add, toNat_zext16, BitVec.toNat_setWidth]
  omega

/-- Without quirk-B the offset register is the one bits 11 to 8 of the immediate name. -/
theorem offsetReg_eq (s : State) {nnn : Addr12} {x : Nibble} (hx : x.val = nnn.toNat / 256) :
    offsetReg s nnn = if s.config.quirkB = true then 0 else x := by
  have hslice : (nnn.extractLsb' 8 4).toFin = x := Fin.ext <| by
    have hlt := x.isLt
    rw [BitVec.val_toFin, BitVec.extractLsb'_toNat, Nat.shiftRight_eq_div_pow, hx]
    omega
  rw [offsetReg, hslice]

/-- Settles O11: the targets are `toNat_zext16` and `toNat_offsetTarget`. -/
theorem jumpsSetPc : Obligations.JumpsSetPc := by
  intro s nnn x hx
  refine ⟨decodeWord_encode (.jp nnn), decodeWord_encode (.jpV0 nnn),
    ⟨_, rfl, toNat_zext16 nnn, Unchanged.setPc s _⟩, _, rfl, Unchanged.setPc s _, ?_⟩
  rw [State.setPc_pc, toNat_offsetTarget, offsetReg_eq s hx]
  split <;> rfl

/-! ## Skips (41 R504 to R507) -/

section

variable (s : State) (a b : Byte)

theorem State.toNat_pc_skipIf (c : Bool) :
    (s.skipIf c).pc.toNat = if c = true then (s.pc.toNat + 2) % 65536 else s.pc.toNat := by
  cases c with
  | false => rfl
  | true => exact BitVec.toNat_add s.pc 2

/-- SE. -/
theorem State.toNat_pc_skipIf_beq :
    (s.skipIf (a == b)).pc.toNat = if a = b then (s.pc.toNat + 2) % 65536 else s.pc.toNat := by
  simp only [State.toNat_pc_skipIf, beq_iff_eq]

/-- SNE. -/
theorem State.toNat_pc_skipIf_bne :
    (s.skipIf (a != b)).pc.toNat = if a = b then s.pc.toNat else (s.pc.toNat + 2) % 65536 := by
  simp only [State.toNat_pc_skipIf, bne_iff_ne, ite_not]

end

/-- Settles O13: each of the four is `State.skipIf` on its condition. -/
theorem skipsOnTheirCondition : Obligations.SkipsOnTheirCondition := by
  intro s x y nn
  exact ⟨decodeWord_encode (.seImm x nn), decodeWord_encode (.sneImm x nn),
    decodeWord_wordXYN_eq_ite (.inl rfl) (i := .seReg x y) rfl,
    decodeWord_wordXYN_eq_ite (.inr rfl) (i := .sneReg x y) rfl,
    ⟨_, rfl, Unchanged.skipIf s _, s.toNat_pc_skipIf_beq (s.getV x) nn⟩,
    ⟨_, rfl, Unchanged.skipIf s _, s.toNat_pc_skipIf_bne (s.getV x) nn⟩,
    ⟨_, rfl, Unchanged.skipIf s _, s.toNat_pc_skipIf_beq (s.getV x) (s.getV y)⟩,
    ⟨_, rfl, Unchanged.skipIf s _, s.toNat_pc_skipIf_bne (s.getV x) (s.getV y)⟩⟩

/-! ## The call stack (41 R501, R503, R510) -/

section

variable {s : State} {nnn : Addr12}

theorem execCall_of_full (h : s.config.stackLimit = some s.stack.length) :
    execCall nnn s = .next (s.raise (.stackOverflow s.instrAddr)) := if_pos (decide_eq_true h)

theorem execCall_of_room (h : s.config.stackLimit ≠ some s.stack.length) :
    execCall nnn s = .next ((s.push s.pc).setPc (zext16 nnn)) := if_neg (mt of_decide_eq_true h)

/-- The step of a CALL that has room. -/
theorem step_call (hr : s.status = .running) (hi : s.nextInstr = some (.call nnn))
    (hroom : s.config.stackLimit ≠ some s.stack.length) :
    step s = .next ((s.advance.push s.advance.pc).setPc (zext16 nnn)) :=
  (step_of_nextInstr hr hi).trans (execCall_of_room hroom)

/-- The step of a RET on a stack that is not empty; the advance of its own `pc` is overwritten. -/
theorem step_ret {w : Word} {rest : List Word} (hr : s.status = .running) (hi : s.nextInstr = some .ret)
    (hs : s.stack = w :: rest) : step s = .next ((s.setStack rest).setPc w) :=
  (step_of_nextInstr hr hi).trans (execRet_of_cons hs)

end

/-- Settles O14: RET takes the stack back to that of the CALL, so what is left of the two steps is the CALL's own
advance, which does not wrap. -/
theorem callThenReturnRestores : Obligations.CallThenReturnRestores := by
  intro s nnn hr hcall hroom hret
  have hpc : s.pc.toNat + 1 < 4096 := State.pc_of_nextInstr hcall
  have hadv : s.advance.pc.toNat = s.pc.toNat + 2 := BitVec.toNat_add_of_lt (show s.pc.toNat + 2 < 65536 by omega)
  have hnext : ((s.advance.push s.advance.pc).setPc (zext16 nnn)).nextInstr = some .ret :=
    (State.nextInstr_congr rfl rfl).trans hret
  have hback : step ((s.advance.push s.advance.pc).setPc (zext16 nnn)) = .next s.advance :=
    step_ret hr hnext rfl
  exact ⟨_, s.advance, step_call hr hcall hroom, toNat_zext16 nnn, hback, hadv, Unchanged.setPc s _⟩

/-- Settles O42: `exec_unchanged`, which holds of every family, for this one. -/
theorem controlFlowFrame : Obligations.ControlFlowFrame := fun _ _ _ _ h => exec_unchanged h

/-- Settles O10, by the two equations of `execRet`. -/
theorem returnPopsOrUnderflows : Obligations.ReturnPopsOrUnderflows := by
  intro s
  constructor
  · intro a rest h
    have hframe := Unchanged.refl { pc := true, stack := true } s
    exact ⟨_, execRet_of_cons h, rfl, rfl, (hframe.thenSetStack rfl rest).thenSetPc rfl a⟩
  · intro h
    exact ⟨_, execRet_of_empty h, rfl, Unchanged.raise s _⟩

/-- Settles O12, by the two equations of `execCall`. -/
theorem callPushesOrOverflows : Obligations.CallPushesOrOverflows := by
  intro s nnn
  constructor
  · intro h
    have hframe := Unchanged.refl { pc := true, stack := true } s
    exact ⟨_, execCall_of_room h, toNat_zext16 nnn, rfl, (hframe.thenSetStack rfl _).thenSetPc rfl _⟩
  · intro h
    exact ⟨_, execCall_of_full h, rfl, Unchanged.raise s _⟩

end Sys2Proof.Machine

/-!
# Registers, arithmetic and logic (42_alu.md)

The encodings are `decodeWord_encode` and the frames are those of the updates. What is left is the value of `Vx` and of
VF: which of two writes is the later one when `x` is F (R600), and the numbers the sums, differences, shifts and flags
stand for.
-/

namespace Sys2Proof.Machine

/-! ## The two orders of writing `Vx` and VF (42 R600) -/

section

variable (s : State) {x : Nibble} (b f : Byte)

theorem State.getV_setFlag_same : (s.setFlag f).getV vf = f := State.getV_setV_same s vf f

theorem State.getV_setFlag_ne (h : x ≠ vf) : (s.setFlag f).getV x = s.getV x := State.getV_setV_ne s f h

/-- The flag last: another `Vx` keeps the value written first. -/
theorem State.getV_setV_setFlag (h : x ≠ vf) : ((s.setV x b).setFlag f).getV x = b := by
  rw [State.getV_setFlag_ne _ f h, State.getV_setV_same]

/-- The flag first: it survives the write of another `Vx`. -/
theorem State.getV_vf_setFlag_setV (h : x ≠ vf) : ((s.setFlag f).setV x b).getV vf = f := by
  rw [State.getV_setV_ne _ b h.symm, State.getV_setFlag_same]

end

/-! ## Numbers of the results and flags -/

section

variable (a b : Byte)

theorem toNat_bitByte_decide (p : Prop) [Decidable p] : (bitByte (decide p)).toNat = if p then 1 else 0 := by
  by_cases h : p
  · rw [decide_eq_true h, if_pos h]; rfl
  · rw [decide_eq_false h, if_neg h]; rfl

theorem toNat_carryFlag : (carryFlag a b).toNat = if a.toNat + b.toNat > 255 then 1 else 0 := toNat_bitByte_decide _

theorem toNat_noBorrowFlag : (noBorrowFlag a b).toNat = if a.toNat ≥ b.toNat then 1 else 0 := toNat_bitByte_decide _

theorem toNat_sub_byte : (a - b).toNat = (a.toNat + 256 - b.toNat) % 256 := by
  rw [BitVec.toNat_sub]
  omega

theorem toNat_shiftRight_one : (a >>> 1).toNat = a.toNat / 2 := by
  rw [BitVec.toNat_ushiftRight, Nat.shiftRight_eq_div_pow, pow_one]

theorem toNat_shiftLeft_one : (a <<< 1).toNat = 2 * a.toNat % 256 := by
  rw [BitVec.toNat_shiftLeft, Nat.shiftLeft_eq, Nat.mul_comm]

end

/-- The value to be shifted is `Vy` under quirk-A and `Vx` otherwise (42 R610, R612). -/
theorem toNat_getV_shiftSource (s : State) (x y : Nibble) : ((shiftSource s x y).getV x).toNat =
    if s.config.quirkA = true then (s.getV y).toNat else (s.getV x).toNat := by
  rw [shiftSource_getV, if_pos rfl, apply_ite BitVec.toNat]

/-! ## Loads, bitwise and immediate instructions (42 R601 to R606, R613) -/

/-- Settles O15: each is one `State.setV`. -/
theorem loadsAndBitwise : Obligations.LoadsAndBitwise := by
  intro s x y nn
  have hread := State.getV_setV_same s x
  have hframe := Unchanged.setV s x
  exact ⟨decodeWord_encode (.ldImm x nn), decodeWord_encode (.ldReg x y), decodeWord_encode (.orReg x y),
    decodeWord_encode (.andReg x y), decodeWord_encode (.xorReg x y),
    ⟨_, rfl, hread _, hframe _⟩,
    ⟨_, rfl, hread _, hframe _⟩,
    ⟨_, rfl, hframe _, fun j => by rw [hread, BitVec.getLsbD_or]⟩,
    ⟨_, rfl, hframe _, fun j => by rw [hread, BitVec.getLsbD_and]⟩,
    ⟨_, rfl, hframe _, fun j => by rw [hread, BitVec.getLsbD_xor]⟩⟩

/-- Settles O16: one `State.setV` of the sum. -/
theorem addImmediateWrapsWithoutFlag : Obligations.AddImmediateWrapsWithoutFlag := by
  intro s x nn
  refine ⟨decodeWord_encode (.addImm x nn), _, rfl, ?_, Unchanged.setV s x _⟩
  rw [State.getV_setV_same, BitVec.toNat_add]

/-- Settles O21: nothing is known, or needed, of the random byte itself. -/
theorem randomByteIsMasked : Obligations.RandomByteIsMasked := by
  intro s x nn
  have hread : (loadRandom (Config.randomByte s.draws) x nn s.useDraw).getV x = Config.randomByte s.draws &&& nn :=
    State.getV_setV_same _ x _
  refine ⟨_, rfl, rfl, fun j => ?_, fun hnn => ?_, exec_unchanged (i := .rnd x nn) rfl⟩
  · rw [hread, BitVec.getLsbD_and]
  · rw [hread, hnn]
    exact BitVec.and_zero

/-! ## Sum and differences: the flag last (42 R608, R609, R611) -/

/-- Settles O17. -/
theorem addWritesCarryLast : Obligations.AddWritesCarryLast := by
  intro s x y
  refine ⟨decodeWord_encode (.addReg x y), _, rfl, fun hx => ?_, ?_, Unchanged.setV_setFlag s x _ _⟩
  · rw [State.getV_setV_setFlag s _ _ hx, BitVec.toNat_add]
  · rw [State.getV_setFlag_same, toNat_carryFlag]

/-- What both subtracts write, `a` and `b` being the operands in their order. -/
theorem subtract_writes (s : State) (x : Nibble) (a b : Byte) :
    (x ≠ vf → (((s.setV x (a - b)).setFlag (noBorrowFlag a b)).getV x).toNat = (a.toNat + 256 - b.toNat) % 256) ∧
    (((s.setV x (a - b)).setFlag (noBorrowFlag a b)).getV vf).toNat = (if a.toNat ≥ b.toNat then 1 else 0) ∧
    Unchanged (Writes.onlyRegs [x, vf]) s ((s.setV x (a - b)).setFlag (noBorrowFlag a b)) := by
  refine ⟨fun hx => ?_, ?_, Unchanged.setV_setFlag s x _ _⟩
  · rw [State.getV_setV_setFlag s _ _ hx, toNat_sub_byte]
  · rw [State.getV_setFlag_same, toNat_noBorrowFlag]

/-- Settles O18: `subtract_writes` with the operands in either order. -/
theorem subtractsWriteNoBorrowLast : Obligations.SubtractsWriteNoBorrowLast := by
  intro s x y
  exact ⟨decodeWord_encode (.subReg x y), decodeWord_encode (.subnReg x y),
    ⟨_, rfl, subtract_writes s x (s.getV x) (s.getV y)⟩, ⟨_, rfl, subtract_writes s x (s.getV y) (s.getV x)⟩⟩

/-! ## Shifts: the flag first, so with `x` = F it is the flag that is shifted (42 R610, R612; D15) -/

/-- Settles O19: the flag 0 or 1, shifted right, is 0. -/
theorem shiftRightAndFlag : Obligations.ShiftRightAndFlag := by
  intro s x y a
  have ha : ((shiftSource s x y).getV x).toNat = a := toNat_getV_shiftSource s x y
  refine ⟨_, rfl, fun hx => ⟨?_, ?_⟩, ?_, shift_unchanged s x y _ _⟩
  · rw [State.getV_setV_same, State.getV_setFlag_ne _ _ hx, toNat_shiftRight_one, ha]
  · rw [State.getV_vf_setFlag_setV _ _ _ hx, toNat_lowBitFlag, ha]
  · rintro rfl
    rw [State.getV_setV_same, State.getV_setFlag_same, toNat_shiftRight_one, toNat_lowBitFlag]
    omega

/-- Settles O20: the flag 0 or 1, shifted left, is twice the flag. -/
theorem shiftLeftAndFlag : Obligations.ShiftLeftAndFlag := by
  intro s x y a
  have ha : ((shiftSource s x y).getV x).toNat = a := toNat_getV_shiftSource s x y
  refine ⟨_, rfl, fun hx => ⟨?_, ?_⟩, ?_, shift_unchanged s x y _ _⟩
  · rw [State.getV_setV_same, State.getV_setFlag_ne _ _ hx, toNat_shiftLeft_one, ha]
  · rw [State.getV_vf_setFlag_setV _ _ _ hx, toNat_highBitFlag, ha]
  · rintro rfl
    have hlt := ((shiftSource s vf y).getV vf).isLt
    rw [State.getV_setV_same, State.getV_setFlag_same, toNat_shiftLeft_one, toNat_highBitFlag, ← ha]
    omega

/-! ## The frame (42 R600, 10 R104) -/

/-- Settles O43: `exec_unchanged`, which holds of every family, for this one. -/
theorem aluFrame : Obligations.AluFrame := fun _ _ _ _ h => exec_unchanged h

end Sys2Proof.Machine

/-!
# Index register and memory (43_index_memory.md)

Each meaning has one equation per branch. A block that lies in memory is accessed whole; one that leaves it is cut off
at the end of memory, and the same lemmas say what was stored or loaded in both cases (40 R409).
-/

namespace Sys2Proof.Machine

/-! ## Frames widened by the index or the status -/

section

variable {w : Writes} {s t : State}

theorem Unchanged.allowIndex (h : Unchanged w s t) : Unchanged { w with index := true } s t :=
  { h with index := nofun }

theorem Unchanged.allowStatus (h : Unchanged w s t) : Unchanged { w with status := true } s t :=
  { h with status := nofun }

end

/-! ## The index register (43 R701 to R703) -/

/-- Settles O22: one `State.setIndex` of an immediate that zero extension keeps. -/
theorem loadIndexSetsIndex : Obligations.LoadIndexSetsIndex :=
  fun s nnn => ⟨decodeWord_encode (.ldI nnn), _, rfl, toNat_zext16 nnn, (Unchanged.refl _ s).thenSetIndex rfl _⟩

section

variable {s : State} {x : Nibble}

/-- FX1E's condition for writing VF: quirk-C, and a sum that is no address (D16). -/
theorem quirkC_and_indexOverflow_iff {q : Bool} {sum : Nat} :
    (q && indexOverflow sum) = true ↔ q = true ∧ Config.memSize ≤ sum := by
  simp [indexOverflow, inBounds]

theorem execAddI_of_overflow (h : s.config.quirkC = true ∧ Config.memSize ≤ s.index.toNat + (s.getV x).toNat) :
    execAddI x s = .next ((s.setIndex (BitVec.ofNat 16 (s.index.toNat + (s.getV x).toNat))).setFlag 1) :=
  congrArg _ (if_pos (quirkC_and_indexOverflow_iff.mpr h))

theorem execAddI_of_no_overflow
    (h : ¬ (s.config.quirkC = true ∧ Config.memSize ≤ s.index.toNat + (s.getV x).toNat)) :
    execAddI x s = .next (s.setIndex (BitVec.ofNat 16 (s.index.toNat + (s.getV x).toNat))) :=
  congrArg _ (if_neg (mt quirkC_and_indexOverflow_iff.mp h))

theorem execLdF_of_digit (h : (s.getV x).toNat ≤ 15) :
    execLdF x s = .next (s.setIndex (glyphAddr (s.getV x).toNat)) :=
  congrArg _ (if_pos h)

theorem execLdF_of_no_digit (h : 15 < (s.getV x).toNat) :
    execLdF x s = .next (s.invalidDigit (encode (.ldF x)) (s.getV x)) :=
  congrArg _ (if_neg (Nat.not_le_of_lt h))

end

/-- The glyph of a digit lies far below the end of the word range. -/
theorem toNat_glyphAddr {d : Nat} (h : d ≤ 15) : (glyphAddr d).toNat = 0x050 + 5 * d :=
  (BitVec.toNat_ofNat _ 16).trans (Nat.mod_eq_of_lt (show 0x050 + 5 * d < 65536 by omega))

/-- The word of FX29 as a number. -/
theorem encode_ldF (x : Nibble) : encode (.ldF x) = BitVec.ofNat 16 (0xF029 + 256 * x.val) := by
  have hx := x.isLt
  have hword : (encode (.ldF x)).toNat = 0xF * 4096 + (x.val * 256 + 0x29) := toNat_wordXK 0xF#4 x 0x29#8
  refine BitVec.eq_of_toNat_eq ?_
  rw [hword, BitVec.toNat_ofNat]
  omega

/-- Settles O23: the sum is the same in both branches, and VF is written in one of them. -/
theorem addIndexAndOverflowFlag : Obligations.AddIndexAndOverflowFlag := by
  intro s x
  have hindex := (Unchanged.refl { index := true, regs := [vf] } s).thenSetIndex rfl
  have hsum := BitVec.toNat_ofNat (s.index.toNat + (s.getV x).toNat) 16
  by_cases h : s.config.quirkC = true ∧ 4096 ≤ s.index.toNat + (s.getV x).toNat
  · refine ⟨_, execAddI_of_overflow h, hsum, ?_, (hindex _).thenSetFlag (List.mem_singleton_self vf) 1⟩
    rw [State.getV_setFlag_same, if_pos h]
  · exact ⟨_, execAddI_of_no_overflow h, hsum, (if_neg h).symm, hindex _⟩

/-- Settles O24, by the two equations of `execLdF`. -/
theorem fontGlyphOrInvalidDigit : Obligations.FontGlyphOrInvalidDigit := by
  intro s x
  constructor
  · intro h
    exact ⟨_, execLdF_of_digit h, toNat_glyphAddr h, (Unchanged.refl _ s).thenSetIndex rfl _⟩
  · intro h
    refine ⟨_, execLdF_of_no_digit h, ?_, (Unchanged.refl _ s).thenDiag rfl _⟩
    rw [encode_ldF]
    rfl

/-! ## Blocks: what was stored and loaded, and the fault -/

section

variable {a n : Nat} {k x : Nibble}

/-- A block that ends below `n` has all its places below `n`. -/
theorem add_val_lt_of_le (hk : k ≤ x) (h : a + x.val < n) : a + k.val < n :=
  (Nat.add_le_add_left hk a).trans_lt h

/-- In a block that ends at `n` or beyond, a place below `n` comes before the last one. -/
theorem le_of_add_val_lt (hk : a + k.val < n) (h : n ≤ a + x.val) : k ≤ x :=
  Nat.le_of_add_le_add_left (hk.le.trans h)

end

section

variable (s : State) {a : Nat}

/-- A block stored up to the end of memory changes nothing below it and nothing beyond. -/
theorem State.storeFitting_unchanged_to_end (a : Nat) (bs : List Byte) :
    Unchanged { storeAt := a, storeLen := Config.memSize - a } s (s.storeFitting a bs) :=
  Unchanged.writeList s a _ (List.length_take_le _ bs)

/-- A byte of the block whose place lies in memory. -/
theorem State.byteAt_storeFitting {bs : List Byte} {k : Nat} (hk : k < bs.length) (ha : a + k < Config.memSize) :
    (s.storeFitting a bs).byteAt (a + k) = bs.getD k 0 := by
  have hfit : k < Config.memSize - a := by omega
  rw [State.storeFitting, State.byteAt_setMem_writeList, List.length_take, if_pos (by omega), Nat.add_sub_cancel_left,
    List.getD_eq_getElem?_getD, List.getElem?_take_of_lt hfit, ← List.getD_eq_getElem?_getD]

/-- Every decimal digit fits a byte. -/
theorem map_toNat_decimalDigits (v : Byte) :
    (decimalDigits v).map BitVec.toNat = [v.toNat / 100, v.toNat / 10 % 10, v.toNat % 10] := by
  have hbyte : ∀ d, d < 256 → (BitVec.ofNat 8 d).toNat = d := fun d hd =>
    (BitVec.toNat_ofNat d 8).trans (Nat.mod_eq_of_lt hd)
  have hv := v.isLt
  rw [decimalDigits, List.map_cons, List.map_cons, List.map_singleton, hbyte _ (by omega), hbyte _ (by omega),
    hbyte _ (by omega)]

/-- FX33's digit whose place lies in memory. -/
theorem State.toNat_byteAt_storeFitting_decimalDigits (v : Byte) (k : Nat) (hk : k < 3) (ha : a + k < Config.memSize) :
    ((s.storeFitting a (decimalDigits v)).byteAt (a + k)).toNat =
      [v.toNat / 100, v.toNat / 10 % 10, v.toNat % 10].getD k 0 := by
  have hlen : k < (decimalDigits v).length := hk
  rw [s.byteAt_storeFitting hlen ha, ← map_toNat_decimalDigits]
  exact (List.getD_map ..).symm

/-- The fault of a block that begins at `a` records the first address outside memory (20 R205). -/
theorem State.raise_outOfBounds_status (a : Nat) : (s.raise (.outOfBounds (max a Config.memSize))).status =
    .faulted (.outOfBounds (if a < 4096 then 4096 else a)) := by
  rw [State.raise_status, max_def_lt]

end

/-- A register after FX65's loads: its byte, when it is in the range and the byte lies in memory. -/
theorem Loaded.getV_eq {s t : State} {x : Nibble} {a : Nat} (h : Loaded (regRange x) 0 a s t) (k : Nibble) :
    t.getV k = if k ≤ x ∧ a + k.val < Config.memSize then s.byteAt (a + k.val) else s.getV k := by
  have hcond : (0 ≤ k.val ∧ k.val < 0 + (regRange x).length ∧ a + (k.val - 0) < Config.memSize) ↔
      k ≤ x ∧ a + k.val < Config.memSize := by
    rw [length_regRange, Fin.le_def]
    omega
  rw [h.regs k, Nat.sub_zero]
  exact if_congr hcond rfl rfl

/-- Quirk-D's increment of an index that a block has left as it was; the sum does not wrap. -/
theorem Unchanged.toNat_index_incrementIndex {w : Writes} {s u : State} {x : Nibble} (hu : Unchanged w s u)
    (hw : w.index = false) (h : s.index.toNat + x.val < 4096) : (incrementIndex x u).index.toNat =
      if s.config.quirkD = true then s.index.toNat + x.val + 1 else s.index.toNat := by
  have hsum : (BitVec.ofNat 16 (s.index.toNat + x.val + 1)).toNat = s.index.toNat + x.val + 1 :=
    (BitVec.toNat_ofNat _ 16).trans (Nat.mod_eq_of_lt (show s.index.toNat + x.val + 1 < 65536 by omega))
  rw [incrementIndex_index, hu.config, hu.index hw, apply_ite BitVec.toNat, hsum]

/-! ## The equations of the block instructions (43 R704 to R706) -/

section

variable {s : State} {x : Nibble}

theorem execLdB_of_fits (h : blockAddr s + 2 < Config.memSize) :
    execLdB x s = .next (s.storeFitting (blockAddr s) (decimalDigits (s.getV x))) := by
  have hall : (decimalDigits (s.getV x)).take (Config.memSize - blockAddr s) = decimalDigits (s.getV x) :=
    List.take_of_length_le (show 3 ≤ Config.memSize - blockAddr s by omega)
  rw [execLdB, State.storeBytes_done _ _ _ h, State.storeFitting, hall]
  rfl

theorem execLdB_of_overrun (h : Config.memSize ≤ blockAddr s + 2) :
    execLdB x s = .next ((s.storeFitting (blockAddr s) (decimalDigits (s.getV x))).raise
      (.outOfBounds (max (blockAddr s) Config.memSize))) :=
  congrArg Attempt.result (State.storeBytes_raised _ _ s (List.cons_ne_nil _ _) (Nat.lt_succ_of_le h))

theorem execStoreRegs_of_overrun (h : Config.memSize ≤ blockAddr s + x.val) :
    execStoreRegs x s = .next ((s.storeFitting (blockAddr s) (regBytes s x)).raise
      (.outOfBounds (max (blockAddr s) Config.memSize))) := by
  have hlen := length_regBytes s x
  have hne : regBytes s x ≠ [] := List.ne_nil_of_length_pos (by omega)
  rw [execStoreRegs, State.storeBytes_raised _ _ s hne (by omega)]
  rfl

theorem execLoadRegs_of_fits (h : blockAddr s + x.val < Config.memSize) :
    ∃ u, Loaded (regRange x) 0 (blockAddr s) s u ∧ execLoadRegs x s = .next (incrementIndex x u) := by
  obtain ⟨u, hu, he⟩ := State.loadRegisters_regRange x (blockAddr s) s
  refine ⟨u, hu, ?_⟩
  rw [execLoadRegs, he, if_pos (Nat.succ_le_of_lt h)]
  rfl

theorem execLoadRegs_of_overrun (h : Config.memSize ≤ blockAddr s + x.val) :
    ∃ u, Loaded (regRange x) 0 (blockAddr s) s u ∧
      execLoadRegs x s = .next (u.raise (.outOfBounds (max (blockAddr s) Config.memSize))) := by
  obtain ⟨u, hu, he⟩ := State.loadRegisters_regRange x (blockAddr s) s
  refine ⟨u, hu, ?_⟩
  rw [execLoadRegs, he, if_neg (show ¬ blockAddr s + x.val + 1 ≤ Config.memSize by omega)]
  rfl

end

/-! ## Blocks inside memory (43 R704 to R706) -/

/-- Settles O25: the three digits by their places in the block. -/
theorem decimalDigitsStored : Obligations.DecimalDigitsStored := by
  intro s x h
  have hdigit := s.toNat_byteAt_storeFitting_decimalDigits (a := blockAddr s) (s.getV x)
  exact ⟨_, execLdB_of_fits h, hdigit 0 (by decide) (Nat.lt_of_add_right_lt h),
    hdigit 1 (by decide) (Nat.lt_of_succ_lt h), hdigit 2 (by decide) h, s.storeFitting_unchanged _ _ (Nat.le_refl 3)⟩

/-- Settles O26: the increment of `I` touches no byte. -/
theorem storeRegistersBlock : Obligations.StoreRegistersBlock := by
  intro s x h
  have hst := s.storeFitting_unchanged (blockAddr s) (regBytes s x) (length_regBytes s x).le
  refine ⟨_, execStoreRegs_of_fits h, fun k hk => ?_, hst.toNat_index_incrementIndex rfl h,
    hst.allowIndex.thenIncrementIndex (fun _ => rfl) x⟩
  rw [incrementIndex_byteAt]
  exact s.byteAt_storeFitting_regBytes hk (add_val_lt_of_le hk h)

/-- Settles O27: every register of the range has its byte in memory. -/
theorem loadRegistersBlock : Obligations.LoadRegistersBlock := by
  intro s x h
  obtain ⟨u, hu, he⟩ := execLoadRegs_of_fits h
  refine ⟨_, he, fun k hk => ?_, fun k hk => ?_, hu.unchanged.toNat_index_incrementIndex rfl h,
    hu.unchanged.allowIndex.thenIncrementIndex (fun _ => rfl) x⟩
  · rw [incrementIndex_getV, hu.getV_eq, if_pos ⟨hk, add_val_lt_of_le hk h⟩]
  · rw [incrementIndex_getV, hu.getV_eq, if_neg fun ⟨hkx, _⟩ => not_le_of_gt hk hkx]

/-! ## Blocks that leave memory (40 R409; D12) -/

/-- Settles O28: the bytes that fit are stored, and the fault is taken in the state they leave. -/
theorem storeBlockFaultKeepsEarlierBytes : Obligations.StoreBlockFaultKeepsEarlierBytes := by
  intro s x
  have hframe := fun bs => (s.storeFitting_unchanged_to_end (blockAddr s) bs).allowStatus
  constructor
  · intro h
    have hdigit := s.toNat_byteAt_storeFitting_decimalDigits (a := blockAddr s) (s.getV x)
    exact ⟨_, execLdB_of_overrun h, State.raise_outOfBounds_status _ _, hdigit 0 (by decide), hdigit 1 (by decide),
      (hframe _).thenRaise rfl _⟩
  · intro h
    refine ⟨_, execStoreRegs_of_overrun h, State.raise_outOfBounds_status _ _, fun k hk => ?_,
      (hframe _).thenRaise rfl _⟩
    exact s.byteAt_storeFitting_regBytes (le_of_add_val_lt hk h) hk

/-- Settles O29: the register of the last byte of memory comes before `Vx`. -/
theorem loadBlockFaultKeepsEarlierLoads : Obligations.LoadBlockFaultKeepsEarlierLoads := by
  intro s x h
  obtain ⟨u, hu, he⟩ := execLoadRegs_of_overrun h
  refine ⟨_, he, State.raise_outOfBounds_status _ _, fun k => ?_, hu.unchanged.allowStatus.thenRaise rfl _⟩
  rw [State.raise_getV, hu.getV_eq]
  exact if_congr (and_iff_right_of_imp fun hk => le_of_add_val_lt hk h) rfl rfl

/-! ## The frame (43 R700, 10 R104) -/

/-- Settles O44: `exec_unchanged`, which holds of every family, for this one. -/
theorem indexMemoryFrame : Obligations.IndexMemoryFrame := fun _ _ _ _ h => exec_unchanged h

end Sys2Proof.Machine

/-!
# Display (44_display.md)

`Canvas.drawRows_drawn` says what the draw engine does. It is read off once at each of the two things `drawSprite`
writes, the pixels of the framebuffer and VF, and every statement about DXYN goes through these lemmas.
-/

namespace Sys2Proof.Machine

/-! ## The bytes of a sprite (44 R803; D17) -/

section

variable {s : State} {x y n : Nibble}

/-- A sprite of no rows reads no byte, so `I` may be any value. -/
theorem execDrw_of_fits (h : n.val = 0 ∨ blockAddr s + n.val ≤ Config.memSize) :
    execDrw x y n s = .next (drawSprite (s.bytesFrom (blockAddr s) n.val) x y s) := by
  rcases h with h | h
  · exact execDrw_of_ok (by rw [h]; rfl)
  · exact execDrw_of_ok (s.readBytes_ok n.val (blockAddr s) h)

theorem execDrw_of_overrun (hn : 0 < n.val) (h : Config.memSize < blockAddr s + n.val) :
    execDrw x y n s = .next (s.raise (.outOfBounds (max (blockAddr s) Config.memSize))) :=
  execDrw_of_error (s.readBytes_error n.val (blockAddr s) hn h)

theorem State.bytesFrom_getD_zero (s : State) (a : Nat) {n : Nat} (hn : 0 < n) :
    (s.bytesFrom a n).getD 0 0 = s.byteAt a := by
  cases n with
  | zero => cases hn
  | succ n => rw [State.bytesFrom, List.range_succ_eq_map]; rfl

end

/-! ## What a sprite does to the pixels and to VF (44 R802, R803) -/

theorem collisionFlag_eq_one_iff (b : Bool) : collisionFlag b = 1 ↔ b = true := by
  cases b <;> decide

theorem collisionFlag_zero_or_one (b : Bool) : collisionFlag b = 0 ∨ collisionFlag b = 1 := by
  cases b with
  | false => exact .inl rfl
  | true => exact .inr rfl

section

variable (rows : List Byte) (x y : Nibble) (s : State)

theorem drawSprite_pixel {r c : Nat} (hr : r < Config.fbHeight) (hc : c < Config.fbWidth) :
    (drawSprite rows x y s).fb.pixel r c =
      (s.fb.pixel r c != spriteBit rows (anchorColumn s x) (anchorRow s y) c r) :=
  (Canvas.drawRows_drawn _ rows _ _).pixel r c ⟨hr, hc⟩

theorem drawSprite_blockAddr : blockAddr (drawSprite rows x y s) = blockAddr s := rfl

theorem drawSprite_bytesFrom (a n : Nat) : (drawSprite rows x y s).bytesFrom a n = s.bytesFrom a n := rfl

theorem drawSprite_getV_vf : (drawSprite rows x y s).getV vf =
    collisionFlag (Canvas.drawRows (anchorColumn s x) rows (anchorRow s y) (s.fb, false)).2 :=
  State.getV_setFlag_same _ _

theorem drawSprite_getV_vf_zero_or_one :
    (drawSprite rows x y s).getV vf = 0 ∨ (drawSprite rows x y s).getV vf = 1 := by
  rw [drawSprite_getV_vf]
  exact collisionFlag_zero_or_one _

theorem drawSprite_getV_vf_eq_one_iff : (drawSprite rows x y s).getV vf = 1 ↔
    ∃ r c, r < Config.fbHeight ∧ c < Config.fbWidth ∧
      spriteBit rows (anchorColumn s x) (anchorRow s y) c r = true ∧ s.fb.pixel r c = true := by
  rw [drawSprite_getV_vf, collisionFlag_eq_one_iff, (Canvas.drawRows_drawn _ rows _ _).collision]
  simp only [Bool.false_eq_true, false_or, and_assoc]

/-- A pixel under a 1-bit is flipped. -/
theorem drawSprite_pixel_of_spriteBit {r c : Nat} (hr : r < Config.fbHeight) (hc : c < Config.fbWidth)
    (hbit : spriteBit rows (anchorColumn s x) (anchorRow s y) c r = true) :
    (drawSprite rows x y s).fb.pixel r c = !s.fb.pixel r c := by
  rw [drawSprite_pixel rows x y s hr hc, hbit, Bool.bne_true]

end

/-- Of a sprite at the last column and row only the first bit of the first row is on the screen (44 R805). -/
theorem spriteBit_corner (rows : List Byte) {r c : Nat} (hr : r < 32) (hc : c < 64) :
    spriteBit rows 63 31 c r = (decide (r = 31 ∧ c = 63) && (rows.getD 0 0).getLsbD 7) := by
  by_cases h : r = 31 ∧ c = 63
  · obtain ⟨rfl, rfl⟩ := h
    rfl
  · have hout : ¬ (31 ≤ r ∧ 63 ≤ c) := by omega
    rw [decide_eq_false h, Bool.false_and, spriteBit, ← Bool.decide_and, decide_eq_false hout, Bool.false_and,
      Bool.false_and]

/-! ## The statements of the family -/

/-- Settles O32: the blank framebuffer is written. -/
theorem clearScreenUnlightsEveryPixel : Obligations.ClearScreenUnlightsEveryPixel := fun s =>
  ⟨decodeWord_encode .cls, _, rfl, fun y x _ _ => Framebuffer.pixel_blank y x, (Unchanged.refl _ s).thenSetFb rfl _⟩

/-- Settles O33: the anchor of `drawSprite` is that of the state before, whatever becomes of VF. -/
theorem drawFlipsTheSprite : Obligations.DrawFlipsTheSprite := by
  intro s x y n h
  refine ⟨_, execDrw_of_fits h, fun r c hr hc => drawSprite_pixel _ x y s hr hc,
    drawSprite_getV_vf_eq_one_iff _ x y s, drawSprite_getV_vf_zero_or_one _ x y s, ?_⟩
  exact ((Unchanged.refl _ s).thenSetFb rfl _).thenSetFlag (List.mem_singleton_self vf) _

/-- Settles O34: the fault of the bytes, which are read before anything is drawn. -/
theorem drawFaultChangesNothingElse : Obligations.DrawFaultChangesNothingElse := fun s _ _ _ hn h =>
  ⟨_, execDrw_of_overrun hn h, s.raise_outOfBounds_status _, Unchanged.raise s _⟩

/-- Settles O35: the second draw finds the same bytes, and by hypothesis the same anchor, so it flips the pixels of the
first. -/
theorem drawingTwiceRestores : Obligations.DrawingTwiceRestores := by
  intro s t x y n h hdraw hcol hrow
  have hfirst : execDrw x y n s = .next t := hdraw
  rw [execDrw_of_fits h] at hfirst
  cases hfirst
  have hsecond := execDrw_of_fits (s := drawSprite (s.bytesFrom (blockAddr s) n.val) x y s) (x := x) (y := y) h
  rw [drawSprite_blockAddr, drawSprite_bytesFrom] at hsecond
  refine ⟨_, hsecond, Framebuffer.ext_pixel fun r c ⟨hr, hc⟩ => ?_, ?_⟩
  · rw [drawSprite_pixel _ x y _ hr hc, drawSprite_pixel _ x y s hr hc, hcol, hrow, Bool.bne_assoc, bne_self_eq_false,
      Bool.bne_false]
  · rw [drawSprite_getV_vf_eq_one_iff, hcol, hrow]
    refine exists_congr fun r => exists_congr fun c => and_congr_right fun hr => and_congr_right fun hc =>
      and_congr_right fun hbit => ?_
    rw [drawSprite_pixel_of_spriteBit _ x y s hr hc hbit, Bool.not_eq_true']

/-- Settles O36, by `spriteBit_corner`: the sprite's other bits are clipped. -/
theorem cornerSpriteIsClipped : Obligations.CornerSpriteIsClipped := by
  intro s x y n hn h hx hy
  have hcol : anchorColumn s x = 63 := hx
  have hrow : anchorRow s y = 31 := hy
  have hpixel : ∀ r c, r < 32 → c < 64 → (drawSprite (s.bytesFrom (blockAddr s) n.val) x y s).fb.pixel r c =
      (s.fb.pixel r c != (decide (r = 31 ∧ c = 63) && (s.byteAt (blockAddr s)).getLsbD 7)) := fun r c hr hc => by
    rw [drawSprite_pixel _ x y s hr hc, hcol, hrow, spriteBit_corner _ hr hc, State.bytesFrom_getD_zero s _ hn]
  refine ⟨_, execDrw_of_fits (.inr h), hpixel 31 63 (by decide) (by decide), fun r c hr hc hne => ?_⟩
  have hout : ¬ (r = 31 ∧ c = 63) := by omega
  rw [hpixel r c hr hc, decide_eq_false hout, Bool.false_and, Bool.bne_false]

/-- Settles O45: `exec_unchanged`, which holds of every family, for these two. -/
theorem displayTimerKeypadFrame : Obligations.DisplayTimerKeypadFrame := fun _ _ _ _ h => exec_unchanged h

end Sys2Proof.Machine

/-!
# Timers and keypad (45_timer_keypad.md)

A timer move is one update of the state. EX9E and EXA1 have an equation for a key index and one for a value that is
none. FX0A has an equation per branch of R906, which the latch, the keys and quirk-E choose.
-/

namespace Sys2Proof.Machine

/-! ## Timers (45 R903 to R905, 60 R1033) -/

theorem State.tone_iff (s : State) : s.tone = true ↔ s.st ≠ 0 := by
  have hzero : s.st.toNat = 0 ↔ s.st = 0 := BitVec.toNat_inj (y := 0#8)
  rw [State.tone, decide_eq_true_iff, Nat.pos_iff_ne_zero, Ne, hzero]

/-- Settles O37: each is one `State.setV`, `State.setDt` or `State.setSt`. -/
theorem timerMoves : Obligations.TimerMoves := by
  intro s x
  exact ⟨decodeWord_encode (.ldVxDt x), decodeWord_encode (.ldDtVx x), decodeWord_encode (.ldStVx x),
    ⟨_, rfl, State.getV_setV_same s x s.dt, Unchanged.setV s x _⟩,
    ⟨_, rfl, rfl, (Unchanged.refl _ s).thenSetDt rfl _⟩,
    ⟨_, rfl, rfl, (s.setSt (s.getV x)).tone_iff, (Unchanged.refl _ s).thenSetSt rfl _⟩⟩

/-! ## Skips on a key (45 R900 to R902; D18) -/

section

variable {b : Byte} {s : State} {x k : Nibble}

theorem keyIndex_of_toNat_eq (h : b.toNat = k.val) : keyIndex b = some k := by
  rw [keyIndex, dif_pos (h ▸ k.isLt)]
  exact congrArg some (Fin.ext h)

theorem keyIndex_of_gt (h : 15 < b.toNat) : keyIndex b = none := dif_neg (Nat.not_lt.mpr h)

theorem skipOnKey_of_key (h : (s.getV x).toNat = k.val) (down : Bool) :
    skipOnKey down x s = s.skipIf (s.keyDown k == down) := by
  rw [skipOnKey, keyIndex_of_toNat_eq h]

theorem skipOnKey_of_no_key (h : 15 < (s.getV x).toNat) (down : Bool) :
    skipOnKey down x s = s.raise (.keyIndexOutOfRange s.instrAddr (s.getV x)) := by
  rw [skipOnKey, keyIndex_of_gt h]

/-- A skip when a Boolean is true. -/
theorem State.toNat_pc_skipIf_beq_true (s : State) (c : Bool) : (s.skipIf (c == true)).pc.toNat =
    if c = true then (s.pc.toNat + 2) % 65536 else s.pc.toNat := by
  rw [beq_true, State.toNat_pc_skipIf]

/-- A skip when a Boolean is false. -/
theorem State.toNat_pc_skipIf_beq_false (s : State) (c : Bool) : (s.skipIf (c == false)).pc.toNat =
    if c = true then s.pc.toNat else (s.pc.toNat + 2) % 65536 := by
  simp only [State.toNat_pc_skipIf, beq_false, Bool.not_eq_true', ← Bool.not_eq_true, ite_not]

end

/-- Settles O38, by the two equations of `skipOnKey`. -/
theorem keySkipsFollowTheKey : Obligations.KeySkipsFollowTheKey := by
  intro s x
  constructor
  · intro k hk
    have hskip := fun down => congrArg (β := Result) .next (skipOnKey_of_key hk down)
    exact ⟨⟨_, hskip true, Unchanged.skipIf s _, s.toNat_pc_skipIf_beq_true _⟩,
      ⟨_, hskip false, Unchanged.skipIf s _, s.toNat_pc_skipIf_beq_false _⟩⟩
  · intro h
    have hfault := fun down => congrArg (β := Result) .next (skipOnKey_of_no_key h down)
    exact ⟨⟨_, hfault true, rfl, Unchanged.raise s _⟩, ⟨_, hfault false, rfl, Unchanged.raise s _⟩⟩

/-! ## The wait for a key (45 R906, R907; D19, D20) -/

theorem toNat_keyByte (k : Nibble) : (keyByte k).toNat = k.val := by
  have hk := k.isLt
  rw [keyByte, BitVec.toNat_ofNat]
  omega

section

variable {s : State} {x k : Nibble}

/-- Some key is chosen when one is down; `State.keyDown_of_pickKey` says that it is one of those. -/
theorem State.exists_pickKey (h : ∃ k, s.keyDown k = true) : ∃ k, s.pickKey = some k := by
  obtain ⟨k, hk⟩ := h
  refine Option.ne_none_iff_exists'.mp fun hnone => ?_
  exact Bool.false_ne_true (((State.pickKey_eq_none s).mp hnone k).symm.trans hk)

theorem execLdVxK_of_beforePress (hl : s.latch = .idle ∨ s.latch = .waitingForPress) :
    execLdVxK x s = .next (awaitPress x s) := by
  rcases hl with hl | hl <;> rw [execLdVxK, hl]

/-- A press under quirk-E: the key is recorded, and FX0A stays for its release. -/
theorem awaitPress_of_quirkE (hk : s.pickKey = some k) (hq : s.config.quirkE = true) :
    awaitPress x s = (((s.setV x (keyByte k)).useDraw).setLatch (.waitingForRelease k)).stay := by
  rw [awaitPress, hk]
  exact if_pos hq

/-- A press without quirk-E: the key is recorded, and FX0A completes. -/
theorem awaitPress_of_not_quirkE (hk : s.pickKey = some k) (hq : s.config.quirkE = false) :
    awaitPress x s = ((s.setV x (keyByte k)).useDraw).setLatch .idle := by
  rw [awaitPress, hk]
  exact if_neg (Bool.not_eq_true _ ▸ hq)

theorem execLdVxK_of_recorded_down (hl : s.latch = .waitingForRelease k) (hk : s.keyDown k = true) :
    execLdVxK x s = .next s.stay := by
  rw [execLdVxK, hl]
  exact congrArg Host.Outcome.next (if_pos hk)

theorem execLdVxK_of_recorded_up (hl : s.latch = .waitingForRelease k) (hk : s.keyDown k = false) :
    execLdVxK x s = .next (s.setLatch .idle) := by
  rw [execLdVxK, hl]
  exact congrArg Host.Outcome.next (if_neg (Bool.not_eq_true _ ▸ hk))

end

/-- Settles O39: whichever key is chosen, it is down; quirk-E decides what follows its record. -/
theorem keyWaitRecordsAPress : Obligations.KeyWaitRecordsAPress := by
  intro s x hl
  constructor
  · intro hup
    exact ⟨_, execLdVxK_of_noKey hl hup, rfl, rfl, ((Unchanged.refl _ s).thenSetLatch rfl _).thenStay rfl⟩
  · intro hdown
    obtain ⟨k, hk⟩ := State.exists_pickKey hdown
    have hexec : exec (.ldVxK x) s = .next (awaitPress x s) := execLdVxK_of_beforePress hl
    have hread : ((s.setV x (keyByte k)).getV x).toNat = k.val := by rw [State.getV_setV_same, toNat_keyByte]
    have hrecord : Unchanged { regs := [x], latch := true, pc := true, draws := true } s
        (s.setV x (keyByte k)).useDraw :=
      ((Unchanged.refl _ s).thenSetV (List.mem_singleton_self x) _).thenUseDraw rfl
    refine ⟨k, awaitPress x s, State.keyDown_of_pickKey hk, hexec, ?_⟩
    cases hq : s.config.quirkE with
    | true =>
      rw [awaitPress_of_quirkE hk hq]
      exact ⟨hread, fun _ => ⟨rfl, rfl⟩, nofun, (hrecord.thenSetLatch rfl _).thenStay rfl⟩
    | false =>
      rw [awaitPress_of_not_quirkE hk hq]
      exact ⟨hread, nofun, fun _ => ⟨rfl, rfl⟩, hrecord.thenSetLatch rfl _⟩

/-- Settles O40: only the recorded key is looked at. -/
theorem keyWaitCompletesOnRelease : Obligations.KeyWaitCompletesOnRelease := fun s _ _ hl =>
  ⟨fun hdown => ⟨_, execLdVxK_of_recorded_down hl hdown, rfl, (Unchanged.refl _ s).thenStay rfl⟩,
    fun hup => ⟨_, execLdVxK_of_recorded_up hl hup, rfl, (Unchanged.refl _ s).thenSetLatch rfl _⟩⟩

end Sys2Proof.Machine

/-!
# Faults, diagnostics and the host (60_exceptions.md)

What the host's operations do to the state, and what a schedule of them keeps; what a step does to the log; the parked
state.
-/

namespace Sys2Proof.Machine

/-! ## The host's operations keep the invariant (60 R1030, R1034, R1035; 70 R1100 to R1102) -/

section

variable {s t : State} {font rom : List Byte}

/-- A load that is not refused: the inputs fit, and the core is a new one with the host's configuration (70 R1100). -/
theorem State.load_cases (h : s.load font rom = .ok t) :
    rom.length ≤ Config.memSize - Config.progBase ∧ font.length = Config.fontSize ∧
    t = { State.reset with
      mem := loadedMemory font rom
      config := s.config
      keys := s.keys
      draws := s.draws } := by
  unfold State.load at h
  split at h
  · cases h
  · next hrom =>
    split at h
    · cases h
    · next hfont =>
      cases h
      exact ⟨by simpa [romFits] using hrom, by simpa [fontFits] using hfont, rfl⟩

theorem loadedMemory_wf (hrom : rom.length ≤ Config.memSize - Config.progBase)
    (hfont : font.length = Config.fontSize) : (loadedMemory font rom).wf = true := by
  have hf : Config.fontBase + font.length ≤ Config.memSize := by rw [hfont]; decide
  have hr : Config.progBase + rom.length ≤ Config.memSize := Nat.add_le_of_le_sub' (by decide) hrom
  exact Memory.wf_writeList rom hr (Memory.wf_writeList font hf rfl)

/-- The new core has an empty stack, so it is within the limit of any configuration the host chose. -/
theorem Inv.load (hs : Inv s) (h : s.load font rom = .ok t) : Inv t := by
  obtain ⟨hrom, hfont, rfl⟩ := State.load_cases h
  exact { resetMeetsInvariant with
    mem := loadedMemory_wf hrom hfont
    depth := fun n _ => Nat.zero_le n
    config := hs.config
    latch := fun hl => absurd rfl hl
    release := fun _ hl => nomatch hl }

/-- `reset()` keeps memory, stack and configuration, and leaves the latch Idle (70 R1102). -/
theorem Inv.hostReset (hs : Inv s) : Inv s.hostReset :=
  { hs with
    pc := resetMeetsInvariant.pc
    latch := fun hl => absurd rfl hl
    release := fun _ hl => nomatch hl }

/-- The keypad is no part of what the next instruction depends on. -/
theorem Inv.poll (hs : Inv s) (k : Keypad) : Inv (s.poll k) := { hs with }

/-- The timers are no part of it either (60 R1030). -/
theorem Inv.tick (hs : Inv s) : Inv s.tick := { hs with }

end

/-- A refused load and a step that is not enabled leave the state (70 R1101, 40 R401). -/
theorem Inv.apply {s : State} (hs : Inv s) (o : HostOp) : Inv (o.apply s) := by
  cases o with
  | load font rom =>
    dsimp only [HostOp.apply]
    split
    · next h => exact hs.load h
    · exact hs
  | poll k => exact hs.poll k
  | step =>
    dsimp only [HostOp.apply]
    split
    · next h => exact stepKeepsInvariant s _ hs h
    · exact hs
    · exact hs
  | tick => exact hs.tick
  | reset => exact hs.hostReset

/-- Settles O60, by induction over the schedule: every operation keeps the invariant (`Inv.apply`). -/
theorem everyScheduleKeepsInvariant : Obligations.EveryScheduleKeepsInvariant := by
  intro ops
  induction ops with
  | nil => exact fun _ hs => hs
  | cons o os ih => exact fun s hs => ih (o.apply s) (hs.apply o)

/-! ## The timers under `tick()` (60 R1030) -/

theorem toNat_timerTick (b : Byte) : (timerTick b).toNat = b.toNat - 1 := by
  unfold timerTick
  split
  · next h => rw [h]; rfl
  · next h => exact BitVec.toNat_sub_of_le (Nat.one_le_iff_ne_zero.mpr h)

theorem toNat_timerTick_iterate (n : Nat) (b : Byte) : (timerTick^[n] b).toNat = b.toNat - n := by
  induction n generalizing b with
  | zero => rfl
  | succ n ih => rw [Function.iterate_succ_apply, ih, toNat_timerTick, Nat.sub_sub, Nat.add_comm 1 n]

/-- Ticks act on the two timers apart. -/
theorem State.tick_iterate (n : Nat) (s : State) :
    State.tick^[n] s = (s.setDt (timerTick^[n] s.dt)).setSt (timerTick^[n] s.st) := by
  induction n generalizing s with
  | zero => rfl
  | succ n ih => rw [Function.iterate_succ_apply, ih]; rfl

/-- Settles O53, by the closed form `State.tick_iterate`. -/
theorem ticksCountDownToZero : Obligations.TicksCountDownToZero := by
  intro n s
  dsimp only
  rw [State.tick_iterate]
  exact ⟨toNat_timerTick_iterate n s.dt, toNat_timerTick_iterate n s.st,
    ((Unchanged.refl _ s).thenSetDt rfl _).thenSetSt rfl _⟩

end Sys2Proof.Machine

/-! ## The diagnostic log (60 R1003, R1010) -/

namespace Sys2Proof.Instr

/-- Only FX29 has the log in its frame. -/
theorem diagWriter_of_writes {i : Instr} {s : Machine.State} (h : (i.writes s).diags = true) : ∃ x, i = .ldF x := by
  cases i with
  | ldF x => exact ⟨x, rfl⟩
  | _ => cases h

end Sys2Proof.Instr

namespace Sys2Proof.Machine

/-- An instruction leaves the log, or it is an FX29 that appends one record and keeps the status. -/
theorem exec_diags {i : Instr} {s t : State} (h : exec i s = .next t) :
    t.diags = s.diags ∨ ((∃ d, t.diags = s.diags ++ [d]) ∧ t.status = s.status) := by
  by_cases hw : (i.writes s).diags = true
  · obtain ⟨x, rfl⟩ := Instr.diagWriter_of_writes hw
    rcases execLdF_cases h with ⟨w, rfl⟩ | ⟨d, rfl⟩
    · exact .inl rfl
    · exact .inr ⟨⟨d, rfl⟩, rfl⟩
  · exact .inl ((exec_unchanged h).diags (Bool.eq_false_of_not_eq_true hw))

/-- Settles O49: a fetch fault records nothing, an unknown encoding records and goes on, and a fetched instruction is
`exec_diags`. -/
theorem diagnosticsAppendOnlyAndExcludeFaults : Obligations.DiagnosticsAppendOnlyAndExcludeFaults := by
  intro s t h
  obtain ⟨hr, ⟨f, _, rfl⟩ | ⟨w, _, _, rfl⟩ | ⟨i, _, hx⟩⟩ := step_cases h
  · exact .inl rfl
  · exact .inr ⟨⟨_, rfl⟩, hr⟩
  · exact (exec_diags hx).imp_right fun ⟨hd, hstatus⟩ => ⟨hd, hstatus.trans hr⟩

/-! ## The parked state (60 R1044, 41 R502) -/

/-- Settles O52: the jump takes `pc` back to where it was, and writes nothing else. -/
theorem parkedStateStays : Obligations.ParkedStateStays := by
  rintro s ⟨hr, nnn, hi, hpc⟩
  have htarget : zext16 nnn = s.pc := BitVec.eq_of_toNat_eq ((toNat_zext16 nnn).trans hpc.symm)
  calc step s = exec (.jp nnn) s.advance := step_of_nextInstr hr hi
    _ = .next (s.setPc (zext16 nnn)) := rfl
    _ = .next s := by rw [htarget]; rfl

end Sys2Proof.Machine

/-!
# Construction and reset (70_reset_and_hazards.md R1100 to R1102)

When a load is refused, what a constructed core holds, and what `reset()` leaves.
-/

namespace Sys2Proof.Machine

section

variable {s : State} {font rom : List Byte}

/-! ## When a load is refused (70 R1101; D30, log entry 11) -/

theorem not_romFits_iff : (!romFits rom) = true ↔ Config.memSize - Config.progBase < rom.length := by
  simp [romFits]

theorem not_fontFits_iff : (!fontFits font) = true ↔ font.length ≠ Config.fontSize := by
  simp [fontFits]

theorem State.load_of_rom_too_long (hrom : Config.memSize - Config.progBase < rom.length) :
    s.load font rom = .error (.capacityExceeded rom.length) :=
  if_pos (not_romFits_iff.mpr hrom)

theorem State.load_of_wrong_font (hrom : rom.length ≤ Config.memSize - Config.progBase)
    (hfont : font.length ≠ Config.fontSize) : s.load font rom = .error (.capacityExceeded font.length) :=
  (if_neg (mt not_romFits_iff.mp (Nat.not_lt_of_le hrom))).trans (if_pos (not_fontFits_iff.mpr hfont))

/-- Sizes that fit are not refused; `State.load_cases` says which core it is. -/
theorem State.exists_load (hrom : rom.length ≤ Config.memSize - Config.progBase)
    (hfont : font.length = Config.fontSize) : ∃ t, s.load font rom = .ok t :=
  ⟨_, (if_neg (mt not_romFits_iff.mp (Nat.not_lt_of_le hrom))).trans
    (if_neg (mt not_fontFits_iff.mp (not_not_intro hfont)))⟩

/-- A refused load constructs nothing. -/
theorem HostOp.apply_load_of_error {f : FatalFault} (h : s.load font rom = .error f) :
    (HostOp.load font rom).apply s = s := by
  rw [HostOp.apply, h]

/-! ## The memory of a new core (70 R1100, 20 R201) -/

/-- Font and ROM do not overlap, and the rest is the 0 that a fresh memory holds outside the font. -/
theorem read_loadedMemory (hfont : font.length = 80) (a : Nat) :
    (loadedMemory font rom).read a =
      if 0x050 ≤ a ∧ a < 0x0A0 then font.getD (a - 0x050) 0
      else if 0x200 ≤ a ∧ a < 0x200 + rom.length then rom.getD (a - 0x200) 0
      else 0 := by
  rw [loadedMemory, Memory.read_writeList, Memory.read_writeList, hfont]
  by_cases hf : 0x050 ≤ a ∧ a < 0x0A0
  · have hr : ¬(0x200 ≤ a ∧ a < 0x200 + rom.length) := by omega
    rw [if_neg hr, if_pos hf, if_pos hf]
  · have hfresh : Memory.read [] a = 0 := initialByte_eq_zero (by omega)
    rw [if_neg hf, if_neg hf, hfresh]

end

/-! ## The statements of the family -/

/-- Settles O54: the registers and the screen are those of the reset state, the bytes by `read_loadedMemory`. -/
theorem loadConstructsTheCore : Obligations.LoadConstructsTheCore := by
  intro s font rom hfont hrom
  obtain ⟨t, h⟩ := State.exists_load (s := s) hrom hfont
  obtain ⟨_, _, rfl⟩ := State.load_cases h
  exact ⟨_, h, fun a _ => read_loadedMemory hfont a, loadedMemory_wf hrom hfont, State.reset_getV, rfl, rfl, rfl, rfl,
    rfl, Framebuffer.pixel_blank, rfl, rfl, rfl, rfl⟩

/-- Settles O55: the ROM's length is checked before the font's, and either refusal leaves the state. -/
theorem loadRefusesWrongSizes : Obligations.LoadRefusesWrongSizes := by
  intro s font rom
  constructor
  · intro hrom
    have h : s.load font rom = .error (.capacityExceeded rom.length) := State.load_of_rom_too_long hrom
    exact ⟨h, HostOp.apply_load_of_error h⟩
  · intro hrom hfont
    have h : s.load font rom = .error (.capacityExceeded font.length) := State.load_of_wrong_font hrom hfont
    exact ⟨h, HostOp.apply_load_of_error h⟩

/-- Settles O57: `reset()` gives the registers, the screen and the status the reset state's values, and keeps every other
field as it is. -/
theorem hostResetKeepsMemoryAndStack : Obligations.HostResetKeepsMemoryAndStack := fun _ =>
  ⟨State.reset_getV, rfl, rfl, rfl, rfl, rfl, Framebuffer.pixel_blank, rfl, fun _ => rfl, rfl, rfl, rfl⟩

end Sys2Proof.Machine
